-- ==== Sys2Proof/Word.lean ====
section
/-! DEFINITION. The two widths in which the spec counts bits: bytes of the link and 16-bit words. -/

namespace Sys2Proof

/-- A byte, the unit of the link and of the working buffer (00_scope.md R9). -/
abbrev Byte := BitVec 8

/-- A 16-bit word: command words and distances (10_state.md R25, 41_telemetry_decoder.md R121). -/
abbrev Word16 := BitVec 16

end Sys2Proof
end

