-- ==== Sys2Proof/Config.lean ====
section
/-! DEFINITION. The build-time parameters of the block and of its host (00_scope.md R6, R7; 30_encoding.md
R86, R87; 92_eei_decisions.md "Open parameters"). They never change at run time. A machine state carries the
parameters of its build, so that every statement can quantify over them (log entry 1). -/

namespace Sys2Proof

/-- How a configuration frame ends (00_scope.md R6 `CFG_TERM`). -/
inductive CfgTerm where
  | marker    -- the 4-byte end marker
  | checksum  -- one additive checksum byte
deriving DecidableEq, Repr

/-- How presence follows from the state byte (00_scope.md R6 `PRESENCE_RULE`, 41_telemetry_decoder.md R123). -/
inductive PresenceRule where
  | ge2  -- state >= 2
  | ne0  -- state != 0
deriving DecidableEq, Repr

/-- The 13 commands of the vocabulary (30_encoding.md R86). -/
inductive Command where
  | enterConfig | exitConfig | readFirmware | writeSerial | readSerial | writeParams | readParams
  | writeTrigger | readTrigger | writeHold | readHold | autoThreshold | switchOutput
deriving DecidableEq, Repr

/-- Every command of R86, in the table's order. -/
def Command.all : List Command :=
  [.enterConfig, .exitConfig, .readFirmware, .writeSerial, .readSerial, .writeParams, .readParams,
   .writeTrigger, .readTrigger, .writeHold, .readHold, .autoThreshold, .switchOutput]

/-- The host-side parameters `CW_*` (30_encoding.md R86): a word for each command. -/
structure CommandWords where
  enterConfig : Word16
  exitConfig : Word16
  readFirmware : Word16
  writeSerial : Word16
  readSerial : Word16
  writeParams : Word16
  readParams : Word16
  writeTrigger : Word16
  readTrigger : Word16
  writeHold : Word16
  readHold : Word16
  autoThreshold : Word16
  switchOutput : Word16
deriving DecidableEq, Repr

/-- The parameters of 00_scope.md R6. `K` and the wire constants of R8 are no parameters; `TICK_PERIOD` is
read by no rule and left out (log entry 21). -/
structure Config where
  /-- `CAP`, the capacity of the working buffer in bytes. -/
  cap : Nat
  /-- `MAX_GATES`, the number of energy bytes of a standard frame. -/
  maxGates : Nat
  /-- `STD_BIG_ENDIAN`, the byte order of the 2-byte fields of the standard frame. -/
  stdBigEndian : Bool
  /-- `PRESENCE_RULE`. -/
  presenceRule : PresenceRule
  /-- `CFG_TERM`. -/
  cfgTerm : CfgTerm
  /-- `TIMEOUT_TICKS`, the command timeout in TICK operations. -/
  timeoutTicks : Nat
  /-- `TMO_W`, the width of the timeout counter. -/
  tmoW : Nat
  /-- `STATUS_LEN`, the number of status bytes that lead a reply payload. -/
  statusLen : Nat
  /-- `STATUS_OK`, the status code meaning success. -/
  statusOk : Nat
  /-- `REPLY_FLAG`, host side: expected reply word = request word OR `REPLY_FLAG` (R87). -/
  replyFlag : Word16
  /-- `CW_*`, host side. -/
  words : CommandWords
  /-- `TX_PAYLOAD_MAX`, the largest payload ISSUE accepts (40_frame_codec.md R104). -/
  txPayloadMax : Nat
  /-- `N_ATTEMPTS`, host side: the bound on attempts per command (44_session_controller.md R210). -/
  nAttempts : Nat
deriving DecidableEq, Repr

/-- The default words of 30_encoding.md R86. PRESUMED by the spec itself (93_implementation_defined.md G1):
unsafe for a claim that rests on one of the numbers; no rule of the block reads them (log entry 17). -/
def CommandWords.default : CommandWords where
  enterConfig := 0x00FF
  exitConfig := 0x00FE
  readFirmware := 0x0000
  writeSerial := 0x0010
  readSerial := 0x0011
  writeParams := 0x0070
  readParams := 0x0071
  writeTrigger := 0x0072
  readTrigger := 0x0073
  writeHold := 0x0076
  readHold := 0x0077
  autoThreshold := 0x0009
  switchOutput := 0x007A

/-- The values of 00_scope.md R6; `N_ATTEMPTS` is OPEN there and takes its example value 3 (log entry 16). -/
def Config.default : Config where
  cap := 256
  maxGates := 16
  stdBigEndian := false
  presenceRule := .ge2
  cfgTerm := .marker
  timeoutTicks := 1000
  tmoW := 16
  statusLen := 2
  statusOk := 0
  replyFlag := 0x0100
  words := CommandWords.default
  txPayloadMax := 65533
  nAttempts := 3

/-- The word of a command (30_encoding.md R86, column "parameter"). -/
def Config.word (c : Config) : Command → Word16
  | .enterConfig => c.words.enterConfig
  | .exitConfig => c.words.exitConfig
  | .readFirmware => c.words.readFirmware
  | .writeSerial => c.words.writeSerial
  | .readSerial => c.words.readSerial
  | .writeParams => c.words.writeParams
  | .readParams => c.words.readParams
  | .writeTrigger => c.words.writeTrigger
  | .readTrigger => c.words.readTrigger
  | .writeHold => c.words.writeHold
  | .readHold => c.words.readHold
  | .autoThreshold => c.words.autoThreshold
  | .switchOutput => c.words.switchOutput

/-- The constraints among the parameters: 00_scope.md R7, the ranges of R6, and what 30_encoding.md R86 requires of
any valuation of the command words. -/
structure Config.Wf (c : Config) : Prop where
  cap_std : 17 + c.maxGates ≤ c.cap
  cap_cfg : 12 ≤ c.cap
  cap_max : c.cap ≤ 65535
  timeout_pos : 1 ≤ c.timeoutTicks
  timeout_fits : c.timeoutTicks < 2 ^ c.tmoW
  status_len : c.statusLen ≤ 4
  status_fits : c.statusOk < 2 ^ (8 * c.statusLen)
  tx_max : c.txPayloadMax ≤ 65533
  attempts_pos : 1 ≤ c.nAttempts
  words_distinct : (Command.all.map c.word).Nodup
  replies_distinct : (Command.all.map fun m => c.word m ||| c.replyFlag).Nodup

end Sys2Proof
end

