-- ==== Sys2Proof/Syntax.lean ====
section
/-! DEFINITION. The instructions: one constructor of `Instr` for each row of spec/opcode_table.json, and the plain
data its operands are made of. -/

namespace Sys2Proof

/-- The register `tfam` and the operand of SET_TFAM: `TF_MIN = 0`, `TF_STD = 1` (10_state.md R28). -/
inductive Tfam where
  | min
  | std
deriving DecidableEq, Repr

/-- The six markers of 00_scope.md R8. -/
inductive Marker where
  | minStart | minEnd | stdStart | stdEnd | cfgStart | cfgEnd
deriving DecidableEq, Repr

/-- An operation of an agent other than the host, as it may occur between two steps of a host sequence
(44_session_controller.md R209: RX, TICK, XERR). -/
inductive EnvOp where
  | rx (b : Byte)
  | tick
  | xerr
deriving DecidableEq, Repr

/-- What the other agents do while a host sequence runs: the k-th entry is what they do right before the k-th step
of the host. When it is used up they do nothing more (log entry 6). -/
abbrev Schedule := List (List EnvOp)

/-- The general parameters of the catalog (44_session_controller.md R213). Frequencies are in tenths of a hertz. -/
structure GeneralParams where
  farthestGate : Nat
  nearestGate : Nat
  /-- seconds -/
  unmannedDelay : Nat
  /-- tenths of a hertz -/
  statusFreq : Nat
  /-- tenths of a hertz -/
  distanceFreq : Nat
  /-- "an enumerated small integer"; its legal values are not in the source (91_not_in_source.md N10) -/
  responseSpeed : Nat
deriving DecidableEq, Repr

/-- The parameters of auto-threshold calibration (44_session_controller.md R213). -/
structure AutoParams where
  triggerFactor : Nat
  holdFactor : Nat
  /-- seconds -/
  scanTime : Nat
deriving DecidableEq, Repr

/-- A parameter set: the groups APPLY_CONFIGURATION may write (44_session_controller.md R212) and the other values of
the catalog that R213 checks. A group that is absent is `none`. -/
structure ParamSet where
  general : Option GeneralParams
  trigger : Option (List Nat)
  hold : Option (List Nat)
  auto : Option AutoParams
  /-- the characters of the serial number -/
  serial : Option (List Byte)
  /-- minimal or standard: both values are legal -/
  outputFormat : Option Tfam
deriving DecidableEq, Repr

/-- The values of the open host-side function `PAYLOAD_OF` (92_eei_decisions.md D38) that one
APPLY_CONFIGURATION needs, for its own parameter set. -/
structure Payloads where
  enter : List Byte
  exit : List Byte
  writeParams : List Byte
  writeTrigger : List Byte
  writeHold : List Byte
  autoThreshold : List Byte
deriving DecidableEq, Repr

/-- One constructor per row of spec/opcode_table.json (30_encoding.md R88). -/
inductive Instr where
  -- frames: the whole frame arrives from the peer
  | tlmMin (state : Byte) (distanceCm : Word16)
  | tlmStd (frameType state : Byte) (movingCm stationaryCm : Word16) (reserved : Byte) (energy : List Byte)
  | cfgFrame (cw : Word16) (payload : List Byte)
  | cfgFrameCk (cw : Word16) (payload : List Byte)
  -- operations (30_encoding.md R81, operands R82)
  | nop
  | rx (b : Byte)
  | tick
  | xerr
  | issue (cls : BitVec 2) (cw expect : Word16) (chk : Bool) (payload : List Byte)
  | poll
  | cancel
  | setTfam (m : Tfam)
  | reservedOp (code : BitVec 4)
  | reset
  -- micro-operations (00_scope.md R10)
  | feed (b : Byte)
  | extract
  | drain
  | handleCfg (w : List Byte)
  | encode (cw : Word16) (payload : List Byte)
  | checksum (bytes : List Byte)
  | matchMarker (bytes : List Byte) (off : Nat) (m : Marker)
  | decodeMin (w : List Byte)
  | decodeStd (w : List Byte)
  | family
  | presence (state : Byte)
  -- commands (30_encoding.md R86)
  | enterConfig (payload : List Byte)
  | exitConfig (payload : List Byte)
  | readFirmware (payload : List Byte)
  | writeSerial (payload : List Byte)
  | readSerial (payload : List Byte)
  | writeParams (payload : List Byte)
  | readParams (payload : List Byte)
  | writeTrigger (payload : List Byte)
  | readTrigger (payload : List Byte)
  | writeHold (payload : List Byte)
  | readHold (payload : List Byte)
  | autoThreshold (payload : List Byte)
  | switchOutput (payload : List Byte)
  -- host sequences (44_session_controller.md R210 to R212)
  | enterConfiguration (payload : List Byte) (sched : Schedule)
  | exitConfiguration (payload : List Byte) (sched : Schedule)
  | applyConfiguration (ps : ParamSet) (payloads : Payloads) (sched : Schedule)
deriving DecidableEq, Repr

/-- The `format` key of a row of the table (30_encoding.md R88). -/
inductive RowFormat where
  | frame | op | micro | command | pseudo
deriving DecidableEq, Repr

/-- The format of an instruction's row. -/
def Instr.format : Instr → RowFormat
  | .tlmMin _ _ | .tlmStd _ _ _ _ _ _ | .cfgFrame _ _ | .cfgFrameCk _ _ => .frame
  | .nop | .rx _ | .tick | .xerr | .issue _ _ _ _ _ | .poll | .cancel | .setTfam _ | .reservedOp _ | .reset => .op
  | .feed _ | .extract | .drain | .handleCfg _ | .encode _ _ | .checksum _ | .matchMarker _ _ _
  | .decodeMin _ | .decodeStd _ | .family | .presence _ => .micro
  | .enterConfig _ | .exitConfig _ | .readFirmware _ | .writeSerial _ | .readSerial _ | .writeParams _
  | .readParams _ | .writeTrigger _ | .readTrigger _ | .writeHold _ | .readHold _ | .autoThreshold _
  | .switchOutput _ => .command
  | .enterConfiguration _ _ | .exitConfiguration _ _ | .applyConfiguration _ _ _ => .pseudo

end Sys2Proof
end

