-- ==== Sys2Proof/Machine/Bytes.lean ====
section
/-! DEFINITION. Bytes and fields: the notation of 00_scope.md R9, the markers of R8, the additive checksum of
40_frame_codec.md R102 and the byte layout of the frames of 30_encoding.md R70 to R75. Pure functions. -/

namespace Sys2Proof.Machine

/-- A byte from its two hexadecimal digits' value. -/
abbrev byte (n : Nat) : Byte := BitVec.ofNat 8 n

/-- `lo8(v) = v mod 256` (00_scope.md R9). -/
def lo8 (v : Nat) : Byte := BitVec.ofNat 8 (v % 256)

/-- `hi8(v) = (v div 256) mod 256` (00_scope.md R9). -/
def hi8 (v : Nat) : Byte := BitVec.ofNat 8 (v / 256 % 256)

/-- `u16le(a, b) = a + 256*b` (00_scope.md R9). -/
def u16le (a b : Byte) : Nat := a.toNat + 256 * b.toNat

/-- `u16be(a, b) = 256*a + b` (00_scope.md R9). -/
def u16be (a b : Byte) : Nat := 256 * a.toNat + b.toNat

/-- `u16std`: `u16be` if `STD_BIG_ENDIAN`, else `u16le` (00_scope.md R9). -/
def u16std (c : Config) (a b : Byte) : Nat := if c.stdBigEndian then u16be a b else u16le a b

/-- A 16-bit field as a word. -/
def word16 (v : Nat) : Word16 := BitVec.ofNat 16 v

/-- The two bytes of a little-endian field, `lo8` then `hi8` (30_encoding.md R76). -/
def bytesLe (v : Nat) : List Byte := [lo8 v, hi8 v]

/-- The two bytes of a field of the standard frame, in the order `u16std` reads them (20_memory.md R53 (c)). -/
def bytesStd (c : Config) (v : Nat) : List Byte := if c.stdBigEndian then [hi8 v, lo8 v] else [lo8 v, hi8 v]

/-- `sum over k of p[k] * 256^k`, the little-endian value of a byte sequence (30_encoding.md R76, `status`). -/
def leValue : List Byte → Nat
  | [] => 0
  | b :: bs => b.toNat + 256 * leValue bs

/-- The bytes of each marker (00_scope.md R8). -/
def markerBytes : Marker → List Byte
  | .minStart => [byte 0x6E]
  | .minEnd => [byte 0x62]
  | .stdStart => [byte 0xF4, byte 0xF3, byte 0xF2, byte 0xF1]
  | .stdEnd => [byte 0xF8, byte 0xF7, byte 0xF6, byte 0xF5]
  | .cfgStart => [byte 0xFD, byte 0xFC, byte 0xFB, byte 0xFA]
  | .cfgEnd => [byte 0x04, byte 0x03, byte 0x02, byte 0x01]

/-- `K`, the length of the longest marker (00_scope.md R6). -/
def markerMax : Nat := 4

/-- CHECKSUM: the sum of the bytes modulo 256 (40_frame_codec.md R102). -/
def checksumOf (s : List Byte) : Byte := BitVec.ofNat 8 ((s.map BitVec.toNat).sum % 256)

/-- MATCH: `off + len(m) <= len(s)` and `s[off .. off + len(m)) = m` (40_frame_codec.md R103). -/
def matchAt (s : List Byte) (off : Nat) (m : List Byte) : Bool :=
  decide (off + m.length ≤ s.length) && decide ((s.drop off).take m.length = m)

/-- Start marker, length field, command word and payload of a configuration frame (30_encoding.md R73). -/
def cfgBody (cw : Word16) (payload : List Byte) : List Byte :=
  markerBytes .cfgStart ++ bytesLe (2 + payload.length) ++ bytesLe cw.toNat ++ payload

/-- A configuration frame that ends in the end marker (30_encoding.md R73). -/
def cfgFrameMarker (cw : Word16) (payload : List Byte) : List Byte := cfgBody cw payload ++ markerBytes .cfgEnd

/-- A configuration frame that ends in the checksum byte (30_encoding.md R75). -/
def cfgFrameChecksum (cw : Word16) (payload : List Byte) : List Byte :=
  cfgBody cw payload ++ [checksumOf (cfgBody cw payload)]

/-- ENCODE: the configuration frame of the build, `none` where the length field would overflow 16 bits
(40_frame_codec.md R101, R104). -/
def encodeFrame (c : Config) (cw : Word16) (payload : List Byte) : Option (List Byte) :=
  if 2 + payload.length > 65535 then none
  else match c.cfgTerm with
    | .marker => some (cfgFrameMarker cw payload)
    | .checksum => some (cfgFrameChecksum cw payload)

/-- The minimal telemetry frame (30_encoding.md R71). -/
def tlmMinFrame (state : Byte) (distanceCm : Word16) : List Byte :=
  markerBytes .minStart ++ [state] ++ bytesLe distanceCm.toNat ++ markerBytes .minEnd

/-- The standard telemetry frame (30_encoding.md R72); its length field counts the bytes between itself and the end
marker. -/
def tlmStdFrame (c : Config) (frameType state : Byte) (movingCm stationaryCm : Word16) (reserved : Byte)
    (energy : List Byte) : List Byte :=
  markerBytes .stdStart ++ bytesStd c (7 + energy.length) ++ [frameType, state] ++ bytesStd c movingCm.toNat ++
    bytesStd c stationaryCm.toNat ++ [reserved] ++ energy ++ markerBytes .stdEnd

/-- The total length of a configuration frame with length field `L`, exact on naturals (42_stream_synchronizer.md
R146, 40_frame_codec.md R105). -/
def cfgTotal (c : Config) (L : Nat) : Nat :=
  match c.cfgTerm with
  | .marker => 10 + L
  | .checksum => 7 + L

end Sys2Proof.Machine
end

