-- ==== Sys2Proof/WellFormed.lean ====
section
/-! DEFINITION. Which instructions are well-formed: the ranges the spec gives their operands. -/

namespace Sys2Proof

open Machine (u16le cfgTotal)

/-- A payload length that the request layout of log entry 3 can carry. -/
def payloadFits (payload : List Byte) : Bool := decide (payload.length < 2 ^ 32)

/-- The window of a configuration frame of this build: long enough to hold its length field and command word, with
a legal `L`, and exactly as long as `L` says (30_encoding.md R73, R75; 43_command_ack.md R175 `len(w) = T`). -/
def cfgWindowOk (c : Config) (w : List Byte) : Bool :=
  match w with
  | _ :: _ :: _ :: _ :: l0 :: l1 :: _ :: _ :: _ =>
    decide (2 ≤ u16le l0 l1) && decide (w.length = cfgTotal c (u16le l0 l1))
  | _ => false

/-- Well-formedness under the parameters `c`: the operand ranges of the rules named in each line. -/
def Instr.wellFormed (c : Config) : Instr → Bool
  | .tlmMin _ _ => true
  | .tlmStd _ _ _ _ _ energy => decide (energy.length = c.maxGates)                                   -- R72
  | .cfgFrame _ payload => decide (c.cfgTerm = .marker) && decide (12 + payload.length ≤ c.cap)   -- R73, R80
  | .cfgFrameCk _ payload => decide (c.cfgTerm = .checksum) && decide (9 + payload.length ≤ c.cap) -- R75, R80
  | .nop | .rx _ | .tick | .xerr | .poll | .cancel | .setTfam _ | .reset => true
  | .issue _ _ _ _ payload => payloadFits payload
  | .reservedOp code => decide (8 ≤ code.toNat) && decide (code.toNat ≤ 14)                            -- R81
  | .feed _ | .extract | .drain | .encode _ _ | .checksum _ | .matchMarker _ _ _ | .family | .presence _ => true
  | .handleCfg w => cfgWindowOk c w                                                                    -- R175
  | .decodeMin w => decide (w.length = 5)                                                              -- R121
  | .decodeStd w => decide (w.length = 17 + c.maxGates)                                                -- R122
  | .enterConfig p | .exitConfig p | .readFirmware p | .writeSerial p | .readSerial p | .writeParams p
  | .readParams p | .writeTrigger p | .readTrigger p | .writeHold p | .readHold p | .autoThreshold p
  | .switchOutput p => payloadFits p
  | .enterConfiguration _ _ | .exitConfiguration _ _ | .applyConfiguration _ _ _ => true

end Sys2Proof
end

