-- ==== Sys2Proof/Decode.lean ====
section
/-! DEFINITION. The decoder of the bytes the agents present, and the encoder written from the same tables.

A request is one of two things. An operation of 30_encoding.md R81: one byte that holds the 4-bit operation code
(R81), then its operands in the order of R82, each in whole bytes, multi-byte operands least significant byte first
(the order and widths are the spec's, this layout is a DESIGN CHOICE, log entry 3). Or a whole frame of R70 in its
wire format, which stands for the RX of each of its bytes in turn (the shorthand RXN of R85; log entry 4). The two
cannot be confused: an operation's first byte is below 16 and the start markers begin with 6E, F4 and FD (R78).

The micro-operations and the host sequences have no bit pattern (R88): nothing decodes to one. The words of a
command of R86 are those of the ISSUE it is a shorthand for (R85), and decode to that ISSUE (log entry 5). -/

namespace Sys2Proof

open Machine

/-- Why bytes are no request. -/
inductive DecodeError where
  | empty                  -- there is no byte
  | unknownCode (b : Byte) -- the first byte is no operation code and begins no start marker
  | truncated              -- the bytes end before the request does
  | badOperand             -- an operand byte holds more than its operand's bits
  | badMarker              -- a start or end marker is not there
  | badLength              -- a length field the frame format does not admit (R80)
  | badChecksum            -- the checksum byte is wrong (R75)
deriving DecidableEq, Repr

/-- The first `n` bytes and the rest. -/
def takeN (n : Nat) (bs : List Byte) : Except DecodeError (List Byte × List Byte) :=
  if n ≤ bs.length then .ok (bs.take n, bs.drop n) else .error .truncated

/-- The first byte and the rest. -/
def takeByte : List Byte → Except DecodeError (Byte × List Byte)
  | [] => .error .truncated
  | b :: bs => .ok (b, bs)

/-- A little-endian 16-bit operand and the rest. -/
def takeWord : List Byte → Except DecodeError (Word16 × List Byte)
  | a :: b :: bs => .ok (word16 (u16le a b), bs)
  | _ => .error .truncated

/-- A 1-bit operand in a byte of its own. -/
def takeBit (bs : List Byte) : Except DecodeError (Bool × List Byte) := do
  let (b, bs) ← takeByte bs
  if b = byte 0 then .ok (false, bs) else if b = byte 1 then .ok (true, bs) else .error .badOperand

/-- Exactly the bytes `m`, and the rest. -/
def expect (m : List Byte) (bs : List Byte) : Except DecodeError (List Byte) := do
  let (x, rest) ← takeN m.length bs
  if x = m then .ok rest else .error .badMarker

/-- The operands of ISSUE (30_encoding.md R82): class, cw, expect, chk, payload length, payload. -/
def decodeIssue (bs : List Byte) : Except DecodeError (Instr × List Byte) := do
  let (k, bs) ← takeByte bs
  if 4 ≤ k.toNat then .error .badOperand
  else
    let (cw, bs) ← takeWord bs
    let (ex, bs) ← takeWord bs
    let (chk, bs) ← takeBit bs
    let (n, bs) ← takeN 4 bs
    let (payload, bs) ← takeN (leValue n) bs
    .ok (.issue (BitVec.ofNat 2 k.toNat) cw ex chk payload, bs)

/-- The operation with code `code` and the operands that follow (30_encoding.md R81). -/
def decodeOp (code : Nat) (bs : List Byte) : Except DecodeError (Instr × List Byte) :=
  match code with
  | 0 => .ok (.nop, bs)
  | 1 => do
    let (b, bs) ← takeByte bs
    .ok (.rx b, bs)
  | 2 => .ok (.tick, bs)
  | 3 => .ok (.xerr, bs)
  | 4 => decodeIssue bs
  | 5 => .ok (.poll, bs)
  | 6 => .ok (.cancel, bs)
  | 7 => do
    let (m, bs) ← takeBit bs
    .ok (.setTfam (if m then .std else .min), bs)
  | 15 => .ok (.reset, bs)
  | c => .ok (.reservedOp (BitVec.ofNat 4 c), bs)

/-- A minimal telemetry frame (30_encoding.md R71). -/
def decodeTlmMin (bs : List Byte) : Except DecodeError (Instr × List Byte) := do
  let bs ← expect (markerBytes .minStart) bs
  let (st, bs) ← takeByte bs
  let (d, bs) ← takeWord bs
  let bs ← expect (markerBytes .minEnd) bs
  .ok (.tlmMin st d, bs)

/-- A 2-byte field of the standard frame (20_memory.md R53 (c)). -/
def takeStd (c : Config) : List Byte → Except DecodeError (Nat × List Byte)
  | a :: b :: bs => .ok (u16std c a b, bs)
  | _ => .error .truncated

/-- A standard telemetry frame (30_encoding.md R72): `L` must be `7 + MAX_GATES`. -/
def decodeTlmStd (c : Config) (bs : List Byte) : Except DecodeError (Instr × List Byte) := do
  let bs ← expect (markerBytes .stdStart) bs
  let (L, bs) ← takeStd c bs
  if L ≠ 7 + c.maxGates then .error .badLength
  else
    let (ft, bs) ← takeByte bs
    let (st, bs) ← takeByte bs
    let (mov, bs) ← takeStd c bs
    let (sta, bs) ← takeStd c bs
    let (res, bs) ← takeByte bs
    let (en, bs) ← takeN c.maxGates bs
    let bs ← expect (markerBytes .stdEnd) bs
    .ok (.tlmStd ft st (word16 mov) (word16 sta) res en, bs)

/-- The end of a configuration frame of this build, and the instruction it completes. -/
def decodeCfgEnd (c : Config) (cw : Word16) (payload bs : List Byte) : Except DecodeError (Instr × List Byte) :=
  match c.cfgTerm with
  | .marker => do
    let bs ← expect (markerBytes .cfgEnd) bs
    .ok (.cfgFrame cw payload, bs)
  | .checksum => do
    let (k, bs) ← takeByte bs
    if k = checksumOf (cfgBody cw payload) then .ok (.cfgFrameCk cw payload, bs) else .error .badChecksum

/-- A configuration frame of this build (30_encoding.md R73 or R75), with the lengths R80 admits. -/
def decodeCfg (c : Config) (bs : List Byte) : Except DecodeError (Instr × List Byte) := do
  let bs ← expect (markerBytes .cfgStart) bs
  let (lw, bs) ← takeWord bs
  let L := lw.toNat
  if L < 2 ∨ c.cap < cfgTotal c L then .error .badLength
  else
    let (cw, bs) ← takeWord bs
    let (payload, bs) ← takeN (L - 2) bs
    decodeCfgEnd c cw payload bs

/-- The request the bytes begin with, and the bytes after it. -/
def decode (c : Config) (bs : List Byte) : Except DecodeError (Instr × List Byte) :=
  match bs with
  | [] => .error .empty
  | b :: rest =>
    if b.toNat < 16 then decodeOp b.toNat rest
    else if b = byte 0x6E then decodeTlmMin bs
    else if b = byte 0xF4 then decodeTlmStd c bs
    else if b = byte 0xFD then decodeCfg c bs
    else .error (.unknownCode b)

/-! ### The commands as ISSUE (30_encoding.md R85, R86) -/

/-- `CL_OTHER = 0`, `CL_ENTER = 1`, `CL_EXIT = 2` as operand of ISSUE: the "class" column of R86. -/
def commandClass : Command → BitVec 2
  | .enterConfig => 1
  | .exitConfig => 2
  | .readFirmware | .writeSerial | .readSerial | .writeParams | .readParams | .writeTrigger | .readTrigger
  | .writeHold | .readHold | .autoThreshold | .switchOutput => 0

/-- The "chk" column of R86 (PRESUMED by the spec itself, 93_implementation_defined.md G4; log entry 17). -/
def commandChk : Command → Bool
  | .enterConfig | .exitConfig | .writeSerial | .writeParams | .writeTrigger | .writeHold | .autoThreshold
  | .switchOutput => true
  | .readFirmware | .readSerial | .readParams | .readTrigger | .readHold => false

/-- `REPLY_OF(cw) = cw OR REPLY_FLAG` (30_encoding.md R87). -/
def replyOf (c : Config) (cw : Word16) : Word16 := cw ||| c.replyFlag

/-- The command an instruction stands for, with its payload, if its row is a command row. -/
def Instr.command? : Instr → Option (Command × List Byte)
  | .enterConfig p => some (.enterConfig, p)
  | .exitConfig p => some (.exitConfig, p)
  | .readFirmware p => some (.readFirmware, p)
  | .writeSerial p => some (.writeSerial, p)
  | .readSerial p => some (.readSerial, p)
  | .writeParams p => some (.writeParams, p)
  | .readParams p => some (.readParams, p)
  | .writeTrigger p => some (.writeTrigger, p)
  | .readTrigger p => some (.readTrigger, p)
  | .writeHold p => some (.writeHold, p)
  | .readHold p => some (.readHold, p)
  | .autoThreshold p => some (.autoThreshold, p)
  | .switchOutput p => some (.switchOutput, p)
  | .tlmMin _ _ | .tlmStd _ _ _ _ _ _ | .cfgFrame _ _ | .cfgFrameCk _ _ | .nop | .rx _ | .tick | .xerr
  | .issue _ _ _ _ _ | .poll | .cancel | .setTfam _ | .reservedOp _ | .reset | .feed _ | .extract | .drain
  | .handleCfg _ | .encode _ _ | .checksum _ | .matchMarker _ _ _ | .decodeMin _ | .decodeStd _ | .family
  | .presence _ | .enterConfiguration _ _ | .exitConfiguration _ _ | .applyConfiguration _ _ _ => none

/-- The ISSUE that a command with this payload is shorthand for (30_encoding.md R85). -/
def commandIssue (c : Config) (m : Command) (payload : List Byte) : Instr :=
  .issue (commandClass m) (c.word m) (replyOf c (c.word m)) (commandChk m) payload

/-- What the words of an instruction decode to: a command's are its ISSUE's, every other instruction's its own. -/
def Instr.canonical (c : Config) (i : Instr) : Instr :=
  match i.command? with
  | some (m, p) => commandIssue c m p
  | none => i

/-! ### The encoder -/

/-- The four bytes of a payload length. -/
def bytes32 (n : Nat) : List Byte :=
  [BitVec.ofNat 8 (n % 256), BitVec.ofNat 8 (n / 256 % 256), BitVec.ofNat 8 (n / 65536 % 256),
   BitVec.ofNat 8 (n / 16777216 % 256)]

/-- A 1-bit operand. -/
def bitByte (b : Bool) : Byte := if b then byte 1 else byte 0

/-- The bytes of an ISSUE. -/
def encodeIssue (cls : BitVec 2) (cw ex : Word16) (chk : Bool) (payload : List Byte) : List Byte :=
  [byte 4, BitVec.ofNat 8 cls.toNat] ++ bytesLe cw.toNat ++ bytesLe ex.toNat ++ [bitByte chk] ++
    bytes32 payload.length ++ payload

/-- The bytes of a command: those of its ISSUE. -/
def encodeCommand (c : Config) (m : Command) (payload : List Byte) : List Byte :=
  encodeIssue (commandClass m) (c.word m) (replyOf c (c.word m)) (commandChk m) payload

/-- The bytes of a well-formed instruction; `none` for the rows that have no bit pattern (30_encoding.md R88). -/
def encode (c : Config) : Instr → Option (List Byte)
  | .tlmMin st d => some (tlmMinFrame st d)
  | .tlmStd ft st mov sta res en => some (tlmStdFrame c ft st mov sta res en)
  | .cfgFrame cw p => some (cfgFrameMarker cw p)
  | .cfgFrameCk cw p => some (cfgFrameChecksum cw p)
  | .nop => some [byte 0]
  | .rx b => some [byte 1, b]
  | .tick => some [byte 2]
  | .xerr => some [byte 3]
  | .issue cls cw ex chk p => some (encodeIssue cls cw ex chk p)
  | .poll => some [byte 5]
  | .cancel => some [byte 6]
  | .setTfam m => some [byte 7, bitByte (decide (m = .std))]
  | .reservedOp code => some [BitVec.ofNat 8 code.toNat]
  | .reset => some [byte 15]
  | .feed _ | .extract | .drain | .handleCfg _ | .encode _ _ | .checksum _ | .matchMarker _ _ _
  | .decodeMin _ | .decodeStd _ | .family | .presence _ => none
  | .enterConfig p => some (encodeCommand c .enterConfig p)
  | .exitConfig p => some (encodeCommand c .exitConfig p)
  | .readFirmware p => some (encodeCommand c .readFirmware p)
  | .writeSerial p => some (encodeCommand c .writeSerial p)
  | .readSerial p => some (encodeCommand c .readSerial p)
  | .writeParams p => some (encodeCommand c .writeParams p)
  | .readParams p => some (encodeCommand c .readParams p)
  | .writeTrigger p => some (encodeCommand c .writeTrigger p)
  | .readTrigger p => some (encodeCommand c .readTrigger p)
  | .writeHold p => some (encodeCommand c .writeHold p)
  | .readHold p => some (encodeCommand c .readHold p)
  | .autoThreshold p => some (encodeCommand c .autoThreshold p)
  | .switchOutput p => some (encodeCommand c .switchOutput p)
  | .enterConfiguration _ _ | .exitConfiguration _ _ | .applyConfiguration _ _ _ => none

/-! ### The host's view of the decoder -/

/-- The number of bytes of the longest request without a payload (the header of ISSUE). -/
def longestHeader : Nat := 11

/-- The `k` low bytes of `w`, the lowest first. -/
def bytesOf : Nat → Nat → List Byte
  | 0, _ => []
  | k + 1, w => BitVec.ofNat 8 (w % 256) :: bytesOf k (w / 256)

/-- The bytes of a table word: those of its `nbits` bits, then zeros up to the longest header. -/
def tableBytes (nbits w : Nat) : List Byte :=
  let k := (nbits + 7) / 8
  bytesOf k (w % 2 ^ nbits) ++ List.replicate (longestHeader - k) (byte 0)

/-- The instruction the decoder reads from a table word, under the default parameters. -/
def decodeTableWord (nbits w : Nat) : Option Instr :=
  match decode Config.default (tableBytes nbits w) with
  | .ok (i, _) => some i
  | .error _ => none

end Sys2Proof
end

