-- ==== Sys2Proof/Machine/State.lean ====
section
/-! DEFINITION. The machine's state as plain data, its outputs, and its reset values. -/

namespace Sys2Proof.Machine

/-- `sess`, the session register (10_state.md R22): STREAMING = 0, AWAITING_ACK = 1, CONFIGURING = 2. The value 3 is
never written by any rule and has no constructor. -/
inductive Sess where
  | streaming
  | awaitingAck
  | configuring
deriving DecidableEq, Repr

/-- `hs`, the state of the Command/ACK Handler (10_state.md R23): IDLE = 0, SENT = 1, ACKED = 2, FAILED = 3. -/
inductive Hs where
  | idle
  | sent
  | acked
  | failed
deriving DecidableEq, Repr

/-- `fail_reason` (10_state.md R23): NONE = 0, TIMEOUT = 1, REJECTED = 2, TRANSPORT = 3. -/
inductive FailReason where
  | none
  | timeout
  | rejected
  | transport
deriving DecidableEq, Repr

/-- `p_class` (10_state.md R25): CL_OTHER = 0, CL_ENTER = 1, CL_EXIT = 2; ISSUE refuses 3, so the register never
holds it. -/
inductive CmdClass where
  | other
  | enter
  | exit
deriving DecidableEq, Repr

/-- The three frame families (30_encoding.md R70). -/
inductive Family where
  | min
  | std
  | cfg
deriving DecidableEq, Repr

/-- The codes of a DIAG event (60_exceptions.md R231). -/
inductive DiagCode where
  | formatError
  | checksumError
  | invalidReply
  | overflow
deriving DecidableEq, Repr

/-- A decoded minimal telemetry frame (00_scope.md R11 `TLM_MIN`). -/
structure TlmMin where
  state : Byte
  presence : Bool
  distanceCm : Word16
deriving DecidableEq, Repr

/-- A decoded standard telemetry frame (00_scope.md R11 `TLM_STD`). -/
structure TlmStd where
  frameType : Byte
  state : Byte
  presence : Bool
  movingCm : Word16
  stationaryCm : Word16
  reserved : Byte
  energy : List Byte
deriving DecidableEq, Repr

/-- The events of the block: the complete list of 00_scope.md R11. -/
inductive Event where
  | tlmMin (r : TlmMin)
  | tlmStd (r : TlmStd)
  | ackDone (cw : Word16) (payload : List Byte)
  | cmdRejected (cw : Word16) (payload : List Byte)
  | cmdTimeout
  | cmdXerr
  | stray (cw : Word16) (payload : List Byte)
  | diag (code : DiagCode)
  | flushInput
  | tx (bytes : List Byte)
deriving DecidableEq, Repr

/-- The status of POLL (30_encoding.md R83): ST_IDLE = 0 to ST_TRANSPORT = 5. -/
inductive PollStatus where
  | idle
  | pending
  | acked
  | timedOut
  | rejected
  | transport
deriving DecidableEq, Repr

/-- The reply part of POLL's result: `(rp_cw, rp_payload[0 .. rp_len))` (30_encoding.md R83). -/
structure Reply where
  cw : Word16
  payload : List Byte
deriving DecidableEq, Repr

/-- Why a host sequence returns an error (44_session_controller.md R210 to R213). -/
inductive SeqError where
  | status (st : PollStatus)  -- the terminal status of the last attempt
  | busy                      -- ISSUE answered BUSY
  | invalidArgument           -- ISSUE answered INVALID_ARGUMENT, or a catalog value is out of range
  | notAttempted              -- no attempt was made: only where `N_ATTEMPTS` is 0, which its range excludes
deriving DecidableEq, Repr

/-- The result of a host sequence (44_session_controller.md R209 to R212). `waiting`: the schedule of the other
agents' operations is used up while a command is still pending, so the host still polls (log entry 6). -/
inductive SeqResult where
  | success
  | error (e : SeqError)
  | waiting
deriving DecidableEq, Repr

/-- The result of an operation (00_scope.md R10, 30_encoding.md R81, R83), and the value a micro-operation or a host
sequence returns. -/
inductive OpResult where
  | none
  | ok
  | busy
  | invalidArgument
  | illegalOp
  | poll (status : PollStatus) (cw : Word16) (reply : Option Reply)
  | noFrame
  | frame (f : Family) (w : List Byte)
  | bytes (bs : List Byte)
  | byte (b : Byte)
  | bit (b : Bool)
  | tlmMin (r : TlmMin)
  | tlmStd (r : TlmStd)
  | formatError
  | family (f : Family)
  | sequence (r : SeqResult)
deriving DecidableEq, Repr

/-- The working buffer: the block's only memory (10_state.md R21). The byte at offset `i` is the `i`-th element, so a
list of bytes is the list of cells with the addresses left out: the addresses are exactly `0 .. len - 1`, in order,
and no other address exists (20_memory.md R50; log entry 9). -/
abbrev Memory := List Byte

/-- The cells of a working buffer, each with its address written out. -/
def Memory.cellsFrom (base : Nat) : Memory → List Host.Cell
  | [] => []
  | b :: bs => (base, b) :: Memory.cellsFrom (base + 1) bs

/-- The cells of a working buffer: offset and byte. -/
def Memory.cells (m : Memory) : List Host.Cell := Memory.cellsFrom 0 m

/-- The form every buffer keeps: no more bytes than `CAP` (10_state.md R21, "never silently grows unbounded"). -/
abbrev Memory.wf (c : Config) (m : Memory) : Prop := m.length ≤ c.cap

/-- The state. The fields from `buf` to `rpPayload` are the tuple of 10_state.md R20; `pos` is the ghost counter of
R24; `cfg`, `events`, `result` and `inq` are the model's own (log entries 1, 2, 8). -/
structure State where
  /-- The build-time parameters (00_scope.md R6); no step writes them. -/
  cfg : Config
  /-- `buf` (R21). -/
  buf : Memory
  /-- `sess` (R22). -/
  sess : Sess
  /-- `hs` (R23). -/
  hs : Hs
  /-- `fail_reason` (R23). -/
  failReason : FailReason
  /-- `tmo_cnt` (R27), an unsigned count below `2 ^ TMO_W`. -/
  tmoCnt : Nat
  /-- `tfam` (R28). -/
  tfam : Tfam
  /-- `p_class` (R25). -/
  pClass : CmdClass
  /-- `p_cw` (R25). -/
  pCw : Word16
  /-- `p_expect` (R25). -/
  pExpect : Word16
  /-- `p_chk` (R25). -/
  pChk : Bool
  /-- `p_prior` (R25). -/
  pPrior : Bool
  /-- `rp_cw` (R26). -/
  rpCw : Word16
  /-- `rp_len` (R26). -/
  rpLen : Nat
  /-- `rp_payload` (R26): the registers that have been written, from index 0 (log entry 11). -/
  rpPayload : List Byte
  /-- Ghost `pos` (R24): the number of bytes removed from the front of `buf` since RESET. -/
  pos : Nat
  /-- The events of the last operation, in the order emitted (00_scope.md R11). -/
  events : List Event
  /-- The result of the last operation (00_scope.md R10). -/
  result : OpResult
  /-- The requests the agents have presented and the block has not yet performed, as bytes (Decode.lean). -/
  inq : List Byte
deriving DecidableEq, Repr

/-- Why the machine stops. No well-formed instruction reaches either fault. -/
inductive Fault where
  /-- A read of `buf` or of a frame window outside its bounds (20_memory.md R50: "a model should make it a fault,
  never a value"). Raised by `memRead` and `byteAt`. Safe. -/
  | memRead
  /-- A scan loop used up more passes than 42_stream_synchronizer.md R152 allows. Raised by EXTRACT and DRAIN. Safe. -/
  | loopBound
deriving DecidableEq, Repr

/-- Why a step has no meaning. -/
inductive Refusal where
  /-- An instruction without a meaning yet. Raised by `exec` alone. Safe. -/
  | notModelled (mnemonic : String)
  /-- The queue holds bytes that are no operation of 30_encoding.md R81 and no frame of R70: no agent has presented an
  operation. Raised by `step` alone. Safe (log entry 22). -/
  | noRequest (e : DecodeError)
deriving DecidableEq, Repr

/-- What RESET writes (10_state.md R32, 70_reset_and_hazards.md R270), in a block built with the parameters `c` and
with no request presented. `rpPayload` is a DESIGN CHOICE (log entry 10). -/
def State.resetWith (c : Config) : State where
  cfg := c
  buf := []
  sess := .streaming
  hs := .idle
  failReason := .none
  tmoCnt := 0
  tfam := .min
  pClass := .other
  pCw := 0
  pExpect := 0
  pChk := false
  pPrior := false
  rpCw := 0
  rpLen := 0
  rpPayload := []
  pos := 0
  events := []
  result := .none
  inq := []

/-- The machine right after reset, built with the parameter values of 00_scope.md R6. -/
def State.reset : State := State.resetWith Config.default

end Sys2Proof.Machine
end

