-- ==== Sys2Proof/Machine/Flags.lean ====
section
/-! DEFINITION. The derived outputs and the one-bit conditions: `busy`, `tlm_pause` (10_state.md R29), the validity of
the reply registers (R26), presence (41_telemetry_decoder.md R123) and the status check (43_command_ack.md R176). The
block has no stored flag (R29). -/

namespace Sys2Proof.Machine

/-- `busy = (hs = SENT)` (10_state.md R29). -/
def State.busy (s : State) : Bool := decide (s.hs = .sent)

/-- `tlm_pause = (sess != STREAMING)` (10_state.md R29, 44_session_controller.md R205). -/
def State.tlmPause (s : State) : Bool := decide (s.sess ≠ .streaming)

/-- `rp_*` are valid exactly when `hs = ACKED`, or `hs = FAILED` with `fail_reason = REJECTED` (10_state.md R26). -/
def State.rpValid (s : State) : Bool :=
  decide (s.hs = .acked) || (decide (s.hs = .failed) && decide (s.failReason = .rejected))

/-- PRESENCE (41_telemetry_decoder.md R123): a function of the state byte alone. -/
def presenceOf (c : Config) (state : Byte) : Bool :=
  match c.presenceRule with
  | .ge2 => decide (2 ≤ state.toNat)
  | .ne0 => decide (state.toNat ≠ 0)

/-- The status test of ACCEPT (43_command_ack.md R176): no check asked for, or at least `STATUS_LEN` payload bytes
whose little-endian value is `STATUS_OK`. -/
def statusOk (c : Config) (chk : Bool) (payload : List Byte) : Bool :=
  !chk || (decide (c.statusLen ≤ payload.length) && decide (leValue (payload.take c.statusLen) = c.statusOk))

end Sys2Proof.Machine
end

