-- ==== Sys2Proof/Machine/Operands.lean ====
section
/-! DEFINITION. The operand forms and the numbers of the enumerations: which class an ISSUE operand names, the
markers of a family, and the code numbers of 92_eei_decisions.md D35, 30_encoding.md R83 and 60_exceptions.md R230,
R231. -/

namespace Sys2Proof.Machine

/-- The class an ISSUE operand names; 3 names none (30_encoding.md R82, 43_command_ack.md R171). -/
def classOf (k : BitVec 2) : Option CmdClass :=
  match k.toNat with
  | 0 => some .other
  | 1 => some .enter
  | 2 => some .exit
  | _ => none

/-- `START(f)` (42_stream_synchronizer.md R140). -/
def startMarker : Family → List Byte
  | .min => markerBytes .minStart
  | .std => markerBytes .stdStart
  | .cfg => markerBytes .cfgStart

/-- `M(f) = len(START(f))` (42_stream_synchronizer.md R140). -/
def markerLen (f : Family) : Nat := (startMarker f).length

/-- The code of a session value (10_state.md R22). -/
def sessCode : Sess → BitVec 2
  | .streaming => 0
  | .awaitingAck => 1
  | .configuring => 2

/-- The code of a handler state (10_state.md R23). -/
def hsCode : Hs → BitVec 2
  | .idle => 0
  | .sent => 1
  | .acked => 2
  | .failed => 3

/-- The code of a fail reason (10_state.md R23). -/
def failReasonCode : FailReason → BitVec 2
  | .none => 0
  | .timeout => 1
  | .rejected => 2
  | .transport => 3

/-- The code of a command class (10_state.md R25). -/
def classCode : CmdClass → BitVec 2
  | .other => 0
  | .enter => 1
  | .exit => 2

/-- The code of a telemetry family selection (10_state.md R28). -/
def tfamCode : Tfam → BitVec 1
  | .min => 0
  | .std => 1

/-- The code of a POLL status (30_encoding.md R83). -/
def pollStatusCode : PollStatus → Nat
  | .idle => 0
  | .pending => 1
  | .acked => 2
  | .timedOut => 3
  | .rejected => 4
  | .transport => 5

/-- The code of a DIAG event (60_exceptions.md R231). -/
def diagCode : DiagCode → Nat
  | .formatError => 1
  | .checksumError => 2
  | .invalidReply => 3
  | .overflow => 10

/-- The error kinds of 60_exceptions.md R230, with what each records. -/
inductive ErrorKind where
  | formatError
  | checksumError
  | invalidReply
  | commandTimeout
  | invalidArgument
  | transportError
  | busy
  | rejected (cw : Word16) (payload : List Byte)
  | illegalOp
deriving DecidableEq, Repr

/-- The code of an error kind (60_exceptions.md R230). -/
def errorCode : ErrorKind → Nat
  | .formatError => 1
  | .checksumError => 2
  | .invalidReply => 3
  | .commandTimeout => 4
  | .invalidArgument => 5
  | .transportError => 6
  | .busy => 7
  | .rejected _ _ => 8
  | .illegalOp => 9

end Sys2Proof.Machine
end

