-- ==== Sys2Proof/Machine/Ops.lean ====
section
/-! DEFINITION. The operations every meaning is built from: reads of the buffer and of windows, the three changes of
the buffer (10_state.md R21), emitting an event, the result of an operation, and raising an error. -/

namespace Sys2Proof.Machine

/-- The outcome of a meaning. -/
abbrev Out := Host.Outcome State Fault Refusal

/-- A computation that ends in a state or in a fault, as a meaning's outcome. -/
def toOut : Except Fault State → Out
  | .ok s => .next s
  | .error f => .fault f

/-! ### Memory -/

/-- `MemRead(off, n)`, the bytes `[off .. off + n)` of a sequence; outside the bound a fault (20_memory.md R50). -/
def memRead (m : List Byte) (off n : Nat) : Except Fault (List Byte) :=
  if off + n ≤ m.length then .ok ((m.drop off).take n) else .error .memRead

/-- The byte at an offset; outside the bound a fault (20_memory.md R50). -/
def byteAt (m : List Byte) (off : Nat) : Except Fault Byte :=
  match m[off]? with
  | some b => .ok b
  | none => .error .memRead

/-- `MemWrite(len(buf), 1, b)`: append one byte (00_scope.md R9). -/
def State.appendByte (b : Byte) (s : State) : State := { s with buf := s.buf ++ [b] }

/-- Removal of the prefix `buf[0 .. n)`; the ghost `pos` grows by the number of bytes removed (10_state.md R24). -/
def State.removePrefix (n : Nat) (s : State) : State :=
  { s with buf := s.buf.drop n, pos := s.pos + min n s.buf.length }

/-- `buf <- []` (20_memory.md R61), a removal of everything. -/
def State.clearBuf (s : State) : State := { s with buf := [], pos := s.pos + s.buf.length }

/-! ### Outputs -/

/-- The start of an operation: nothing emitted yet, no result yet (00_scope.md R10). -/
def State.opStart (s : State) : State := { s with events := [], result := .none }

/-- `emit EV(args)` (00_scope.md R9). -/
def State.emit (e : Event) (s : State) : State := { s with events := s.events ++ [e] }

/-- The result an operation returns. -/
def State.setResult (r : OpResult) (s : State) : State := { s with result := r }

/-! ### Ends of a command, and errors -/

/-- A pending command ends without success: `hs`, `fail_reason`, and `sess` in its fail-safe value
(44_session_controller.md R203). -/
def State.failCommand (r : FailReason) (s : State) : State :=
  { s with hs := .failed, failReason := r, sess := .streaming }

/-- `raise E`: the effect 60_exceptions.md R232 to R240 gives each error. Taking an error saves nothing and transfers
control nowhere (R242), and there is no return from one (R243): the raising rule goes on. What `raise` leaves to the
raising rule is what that rule's pseudocode does itself (the STRAY of R177, the registers of R176). -/
def State.raise (e : ErrorKind) (s : State) : State :=
  match e with
  | .formatError => (s.emit (.diag .formatError)).removePrefix 1                    -- R232
  | .checksumError => (s.emit (.diag .checksumError)).removePrefix 1                -- R233
  | .invalidReply => s.emit (.diag .invalidReply)                                   -- R234
  | .commandTimeout => (s.failCommand .timeout).emit .cmdTimeout                    -- R235
  | .invalidArgument => s.setResult .invalidArgument                                -- R236
  | .transportError =>                                                              -- R237
    if s.hs = .sent then (s.clearBuf.failCommand .transport).emit .cmdXerr else s.clearBuf
  | .busy => s.setResult .busy                                                      -- R238
  | .rejected cw payload => (s.failCommand .rejected).emit (.cmdRejected cw payload) -- R239
  | .illegalOp => s.setResult .illegalOp                                            -- R240

end Sys2Proof.Machine
end

