-- ==== Sys2Proof/Machine/Control.lean ====
section
/-! DEFINITION. NOP, the reserved operation codes, and RESET. -/

namespace Sys2Proof.Machine

/-- NOP: no state change, no event (30_encoding.md R81). -/
def execNop (s : State) : Out := .next s.opStart

/-- A reserved operation code: nothing changes, the result is `ILLEGAL_OP` (60_exceptions.md R240). -/
def execReservedOp (_code : BitVec 4) (s : State) : Out := .next (s.opStart.raise .illegalOp)

/-- RESET (70_reset_and_hazards.md R270). The parameters of the build and the requests the agents have already
presented are outside the block and stay (log entry 26). -/
def resetBlock (s : State) : State := { State.resetWith s.cfg with inq := s.inq }

/-- RESET of a host. -/
def execReset (s : State) : Out := .next (resetBlock s)

end Sys2Proof.Machine
end

