-- ==== Sys2Proof/Machine/FrameCodec.lean ====
section
/-! DEFINITION. The Frame Codec: ENCODE, CHECKSUM and MATCH (40_frame_codec.md). Pure functions (R100): each meaning
changes no register and returns a value. -/

namespace Sys2Proof.Machine

/-- ENCODE (40_frame_codec.md R101): the frame, or `InvalidArgument` where the length field would overflow (R104). -/
def execEncode (cw : Word16) (payload : List Byte) (s : State) : Out :=
  match encodeFrame s.cfg cw payload with
  | some bs => .next (s.opStart.setResult (.bytes bs))
  | none => .next (s.opStart.raise .invalidArgument)

/-- CHECKSUM (40_frame_codec.md R102). -/
def execChecksum (bytes : List Byte) (s : State) : Out := .next (s.opStart.setResult (.byte (checksumOf bytes)))

/-- MATCH (40_frame_codec.md R103). -/
def execMatchMarker (bytes : List Byte) (off : Nat) (m : Marker) (s : State) : Out :=
  .next (s.opStart.setResult (.bit (matchAt bytes off (markerBytes m))))

end Sys2Proof.Machine
end

