-- ==== Sys2Proof/Machine/Reply.lean ====
section
/-! DEFINITION. The reply parser of the Command/ACK Handler: HANDLE_CFG and ACCEPT (43_command_ack.md R175 to
R177). -/

namespace Sys2Proof.Machine

/-- The session after a successful command (43_command_ack.md R176, 44_session_controller.md R203). -/
def sessAfterAck (cls : CmdClass) (prior : Bool) : Sess :=
  match cls with
  | .enter => .configuring
  | .exit => .streaming
  | .other => if prior then .configuring else .streaming

/-- The reply registers take a reply (43_command_ack.md R176). -/
def State.storeReply (cw : Word16) (payload : List Byte) (s : State) : State :=
  { s with rpCw := cw, rpLen := payload.length, rpPayload := payload }

/-- A pending command is acknowledged (43_command_ack.md R176). -/
def State.ackCommand (s : State) : State := { s with hs := .acked, sess := sessAfterAck s.pClass s.pPrior }

/-- ACCEPT (43_command_ack.md R176). -/
def accept (cw : Word16) (payload : List Byte) (s : State) : State :=
  if statusOk s.cfg s.pChk payload then
    ((s.storeReply cw payload).ackCommand).emit (.ackDone cw payload)
  else
    (s.storeReply cw payload).raise (.rejected cw payload)

/-- The frame fields HANDLE_CFG reads: command word and payload (43_command_ack.md R175). -/
def cfgFields (w : List Byte) : Except Fault (Word16 × List Byte) := do
  let l0 ← byteAt w 4
  let l1 ← byteAt w 5
  let c0 ← byteAt w 6
  let c1 ← byteAt w 7
  let payload ← memRead w 8 (u16le l0 l1 - 2)
  .ok (word16 (u16le c0 c1), payload)

/-- What HANDLE_CFG does with a frame's command word and payload (43_command_ack.md R175, R177). -/
def handleReply (cw : Word16) (payload : List Byte) (s : State) : State :=
  if s.hs = .sent ∧ cw = s.pExpect then accept cw payload s
  else if s.hs = .sent then (s.raise .invalidReply).emit (.stray cw payload)
  else s.emit (.stray cw payload)

/-- HANDLE_CFG (43_command_ack.md R175). -/
def handleCfg (w : List Byte) (s : State) : Except Fault State := do
  let (cw, payload) ← cfgFields w
  .ok (handleReply cw payload s)

/-- HANDLE_CFG on a window. -/
def execHandleCfg (w : List Byte) (s : State) : Out := toOut (handleCfg w s.opStart)

end Sys2Proof.Machine
end

