-- ==== Sys2Proof/Machine/Session.lean ====
section
/-! DEFINITION. The demultiplexer's select FAMILY and the operation SET_TFAM (44_session_controller.md). -/

namespace Sys2Proof.Machine

/-- FAMILY (44_session_controller.md R201). -/
def State.family (s : State) : Family :=
  match s.sess with
  | .streaming => match s.tfam with
    | .min => .min
    | .std => .std
  | .awaitingAck => .cfg
  | .configuring => .cfg

/-- FAMILY as a micro-operation. -/
def execFamily (s : State) : Out := .next (s.opStart.setResult (.family s.family))

/-- SET_TFAM (44_session_controller.md R207). -/
def execSetTfam (m : Tfam) (s : State) : Out := .next { s.opStart with tfam := m }

end Sys2Proof.Machine
end

