-- ==== Sys2Proof/Machine/Telemetry.lean ====
section
/-! DEFINITION. The Telemetry Decoder: DECODE_MIN, DECODE_STD and PRESENCE (41_telemetry_decoder.md). Pure (R120):
each meaning changes no register and returns a value; `FormatError` is a value. -/

namespace Sys2Proof.Machine

/-- DECODE_MIN (41_telemetry_decoder.md R121): `none` is `FormatError`. -/
def decodeMinWindow (c : Config) (w : List Byte) : Except Fault (Option TlmMin) := do
  let w0 ← byteAt w 0
  let w4 ← byteAt w 4
  if [w0] ≠ markerBytes .minStart ∨ [w4] ≠ markerBytes .minEnd then .ok none
  else
    let st ← byteAt w 1
    let lo ← byteAt w 2
    let hi ← byteAt w 3
    .ok (some { state := st, presence := presenceOf c st, distanceCm := word16 (u16le lo hi) })

/-- DECODE_STD (41_telemetry_decoder.md R122): `none` is `FormatError`. -/
def decodeStdWindow (c : Config) (w : List Byte) : Except Fault (Option TlmStd) := do
  let G := c.maxGates
  let start ← memRead w 0 4
  let l0 ← byteAt w 4
  let l1 ← byteAt w 5
  let tail ← memRead w (13 + G) 4
  if start ≠ markerBytes .stdStart ∨ u16std c l0 l1 ≠ 7 + G ∨ tail ≠ markerBytes .stdEnd then .ok none
  else
    let ft ← byteAt w 6
    let st ← byteAt w 7
    let m0 ← byteAt w 8
    let m1 ← byteAt w 9
    let n0 ← byteAt w 10
    let n1 ← byteAt w 11
    let res ← byteAt w 12
    let energy ← memRead w 13 G
    .ok (some { frameType := ft, state := st, presence := presenceOf c st, movingCm := word16 (u16std c m0 m1),
                stationaryCm := word16 (u16std c n0 n1), reserved := res, energy := energy })

/-- DECODE_MIN on a window (41_telemetry_decoder.md R121). -/
def execDecodeMin (w : List Byte) (s : State) : Out :=
  match decodeMinWindow s.cfg w with
  | .ok (some r) => .next (s.opStart.setResult (.tlmMin r))
  | .ok none => .next (s.opStart.setResult .formatError)
  | .error f => .fault f

/-- DECODE_STD on a window (41_telemetry_decoder.md R122). -/
def execDecodeStd (w : List Byte) (s : State) : Out :=
  match decodeStdWindow s.cfg w with
  | .ok (some r) => .next (s.opStart.setResult (.tlmStd r))
  | .ok none => .next (s.opStart.setResult .formatError)
  | .error f => .fault f

/-- PRESENCE (41_telemetry_decoder.md R123). -/
def execPresence (state : Byte) (s : State) : Out := .next (s.opStart.setResult (.bit (presenceOf s.cfg state)))

end Sys2Proof.Machine
end

