-- ==== Sys2Proof/Machine/StreamSync.lean ====
section
/-! DEFINITION. The Stream Synchronizer: FEED, EXTRACT, DRAIN and RX (42_stream_synchronizer.md). -/

namespace Sys2Proof.Machine

/-! ### FEED -/

/-- FEED (42_stream_synchronizer.md R141): append one byte; on a full buffer keep only the trailing `K` bytes of
`buf ++ [b]`. -/
def feed (b : Byte) (s : State) : State :=
  if s.buf.length < s.cfg.cap then s.appendByte b
  else
    let t := s.appendByte b
    (t.removePrefix (t.buf.length - markerMax)).emit (.diag .overflow)

/-- FEED as a micro-operation. -/
def execFeed (b : Byte) (s : State) : Out := .next (feed b s.opStart)

/-! ### EXTRACT -/

/-- `FIRST(f)` for the marker `m`: the least offset at which it stands in `buf` (42_stream_synchronizer.md R142). -/
def firstMatch (buf m : List Byte) : Option Nat :=
  (List.range (buf.length + 1 - m.length)).find? fun i => matchAt buf i m

/-- The largest `r <= min(n, M - 1)` such that the last `r` bytes of `buf` are the first `r` of the marker
(42_stream_synchronizer.md R143, R145). -/
def keepLen (buf m : List Byte) : Nat :=
  ((List.range (min buf.length (m.length - 1) + 1)).reverse.find? fun r =>
    decide (buf.drop (buf.length - r) = m.take r)).getD 0

/-- The answer of HEADER_LENGTH (42_stream_synchronizer.md R146). -/
inductive Header where
  | needMore
  | bad
  | total (T : Nat)
deriving DecidableEq, Repr

/-- HEADER_LENGTH on a candidate at offset 0 (42_stream_synchronizer.md R146). -/
def headerLength (c : Config) (f : Family) (buf : List Byte) : Except Fault Header :=
  match f with
  | .min => .ok (.total 5)
  | .std =>
    if buf.length < 6 then .ok .needMore
    else do
      let l0 ← byteAt buf 4
      let l1 ← byteAt buf 5
      if u16std c l0 l1 ≠ 7 + c.maxGates then .ok .bad else .ok (.total (10 + u16std c l0 l1))
  | .cfg =>
    if buf.length < 6 then .ok .needMore
    else do
      let l0 ← byteAt buf 4
      let l1 ← byteAt buf 5
      if u16le l0 l1 < 2 ∨ c.cap < cfgTotal c (u16le l0 l1) then .ok .bad
      else .ok (.total (cfgTotal c (u16le l0 l1)))

/-- TAIL_OK on a window (42_stream_synchronizer.md R147). -/
def tailOk (c : Config) (f : Family) (w : List Byte) : Except Fault Bool :=
  match f with
  | .min => do
    let b ← byteAt w 4
    .ok (decide ([b] = markerBytes .minEnd))
  | .std => do
    let t ← memRead w (w.length - 4) 4
    .ok (decide (t = markerBytes .stdEnd))
  | .cfg => match c.cfgTerm with
    | .marker => do
      let t ← memRead w (w.length - 4) 4
      .ok (decide (t = markerBytes .cfgEnd))
    | .checksum => do
      let k ← byteAt w (w.length - 1)
      let body ← memRead w 0 (w.length - 1)
      .ok (decide (k = checksumOf body))

/-- The error a failed tail raises: `ChecksumError` for a configuration frame of a `CFG_TERM = CHECKSUM` build,
`FormatError` in all other cases (42_stream_synchronizer.md R147, 60_exceptions.md R233). -/
def tailError (c : Config) (f : Family) : ErrorKind :=
  match f, c.cfgTerm with
  | .cfg, .checksum => .checksumError
  | _, _ => .formatError

/-- EXTRACT's loop under the family `f`, with a bound on its passes (42_stream_synchronizer.md R143, R144 to R148). -/
def extractLoop (f : Family) : Nat → State → Except Fault (State × Option (List Byte))
  | 0, _ => .error .loopBound
  | fuel + 1, s =>
    match firstMatch s.buf (startMarker f) with
    | none => .ok (s.removePrefix (s.buf.length - keepLen s.buf (startMarker f)), none)
    | some i => do
      let s := s.removePrefix i
      match ← headerLength s.cfg f s.buf with
      | .needMore => .ok (s, none)
      | .bad => extractLoop f fuel (s.raise .formatError)
      | .total T =>
        if s.buf.length < T then .ok (s, none)
        else do
          let w ← memRead s.buf 0 T
          let ok ← tailOk s.cfg f w
          if ok then .ok (s.removePrefix T, some w) else extractLoop f fuel (s.raise (tailError s.cfg f))

/-- EXTRACT (42_stream_synchronizer.md R143): under the active family, in at most `len(buf) + 1` passes (R152). A
window, or nothing. -/
def extract (s : State) : Except Fault (State × Option (List Byte)) :=
  extractLoop s.family (s.buf.length + 1) s

/-- EXTRACT as a micro-operation: its result is `Frame(f, w)` or `None`. -/
def execExtract (s : State) : Out :=
  match extract s.opStart with
  | .ok (t, some w) => .next (t.setResult (.frame s.family w))
  | .ok (t, none) => .next (t.setResult .noFrame)
  | .error f => .fault f

/-! ### DRAIN and RX -/

/-- What DRAIN does with one extracted frame (42_stream_synchronizer.md R149). -/
def dispatchFrame (f : Family) (w : List Byte) (s : State) : Except Fault State :=
  match f with
  | .min => do
    match ← decodeMinWindow s.cfg w with
    | some r => .ok (s.emit (.tlmMin r))
    | none => .ok s
  | .std => do
    match ← decodeStdWindow s.cfg w with
    | some r => .ok (s.emit (.tlmStd r))
    | none => .ok s
  | .cfg => handleCfg w s

/-- DRAIN's loop with a bound on its passes (42_stream_synchronizer.md R149, R152). -/
def drainLoop : Nat → State → Except Fault State
  | 0, _ => .error .loopBound
  | fuel + 1, s => do
    match ← extract s with
    | (t, none) => .ok t
    | (t, some w) => do
      let t ← dispatchFrame s.family w t
      drainLoop fuel t

/-- DRAIN (42_stream_synchronizer.md R149): every pass but the last consumes a frame, so `len(buf) + 1` passes
suffice. -/
def drain (s : State) : Except Fault State := drainLoop (s.buf.length + 1) s

/-- DRAIN as a micro-operation. -/
def execDrain (s : State) : Out := toOut (drain s.opStart)

/-- RX (42_stream_synchronizer.md R150). -/
def receive (b : Byte) (s : State) : Except Fault State := drain (feed b s)

/-- RX of one byte. -/
def execRx (b : Byte) (s : State) : Out := toOut (receive b s.opStart)

/-- `RXN`: RX of each byte in turn (30_encoding.md R85). -/
def receiveAll : List Byte → State → Except Fault State
  | [], s => .ok s
  | b :: bs, s => do
    let s ← receive b s
    receiveAll bs s

end Sys2Proof.Machine
end

