-- ==== Sys2Proof/Machine/Frames.lean ====
section
/-! DEFINITION. The frame rows: a whole frame arrives from the peer, each of its bytes by one RX (30_encoding.md R70
to R75, R85 `RXN`). Whether it is recognised is what the rules of the synchronizer make of those bytes under the
active family (42_stream_synchronizer.md R143, 44_session_controller.md R202). Log entry 4. -/

namespace Sys2Proof.Machine

/-- TLM_MIN (30_encoding.md R71; decoded by DECODE_MIN, 41_telemetry_decoder.md R121). -/
def execTlmMin (state : Byte) (distanceCm : Word16) (s : State) : Out :=
  toOut (receiveAll (tlmMinFrame state distanceCm) s.opStart)

/-- TLM_STD (30_encoding.md R72; decoded by DECODE_STD, 41_telemetry_decoder.md R122). -/
def execTlmStd (frameType state : Byte) (movingCm stationaryCm : Word16) (reserved : Byte) (energy : List Byte)
    (s : State) : Out :=
  toOut (receiveAll (tlmStdFrame s.cfg frameType state movingCm stationaryCm reserved energy) s.opStart)

/-- CFG_FRAME (30_encoding.md R73; handled by HANDLE_CFG, 43_command_ack.md R175). -/
def execCfgFrame (cw : Word16) (payload : List Byte) (s : State) : Out :=
  toOut (receiveAll (cfgFrameMarker cw payload) s.opStart)

/-- CFG_FRAME_CK (30_encoding.md R75; handled by HANDLE_CFG, 43_command_ack.md R175). -/
def execCfgFrameCk (cw : Word16) (payload : List Byte) (s : State) : Out :=
  toOut (receiveAll (cfgFrameChecksum cw payload) s.opStart)

end Sys2Proof.Machine
end

