-- ==== Sys2Proof/Machine/CommandAck.lean ====
section
/-! DEFINITION. The operations of the Command/ACK Handler: ISSUE, TICK, POLL, CANCEL, XERR (43_command_ack.md). -/

namespace Sys2Proof.Machine

/-! ### ISSUE -/

/-- The registers ISSUE writes when it accepts a command (43_command_ack.md R172, 44_session_controller.md R203). -/
def State.recordCommand (cls : CmdClass) (cw expect : Word16) (chk : Bool) (s : State) : State :=
  { s with
    pClass := cls
    pCw := cw
    pExpect := expect
    pChk := chk
    pPrior := decide (s.sess = .configuring)
    tmoCnt := s.cfg.timeoutTicks
    failReason := .none
    hs := .sent
    sess := .awaitingAck }

/-- ISSUE (43_command_ack.md R171, R172). A payload above `TX_PAYLOAD_MAX` is refused like one whose length field
would overflow (40_frame_codec.md R104). "rp_* <- not valid" is the change of `hs` (10_state.md R26). -/
def issue (cls : BitVec 2) (cw expect : Word16) (chk : Bool) (payload : List Byte) (s : State) : State :=
  if s.hs = .sent then s.raise .busy
  else match classOf cls, encodeFrame s.cfg cw payload with
    | some k, some frame =>
      if s.cfg.txPayloadMax < payload.length then s.raise .invalidArgument
      else
        ((((s.emit .flushInput).clearBuf).emit (.tx frame)).recordCommand k cw expect chk).setResult .ok
    | _, _ => s.raise .invalidArgument

/-- ISSUE of a host. -/
def execIssue (cls : BitVec 2) (cw expect : Word16) (chk : Bool) (payload : List Byte) (s : State) : Out :=
  .next (issue cls cw expect chk payload s.opStart)

/-! ### TICK -/

/-- TICK (43_command_ack.md R178). -/
def tick (s : State) : State :=
  if s.hs = .sent then
    let t := { s with tmoCnt := s.tmoCnt - 1 }
    if t.tmoCnt = 0 then t.raise .commandTimeout else t
  else s

/-- TICK of the time base. -/
def execTick (s : State) : Out := .next (tick s.opStart)

/-! ### POLL -/

/-- The status POLL reports (43_command_ack.md R179). A failed handler without a reason is no state of a run
(10_state.md R31 (d)); it reads as idle. -/
def pollStatus (s : State) : PollStatus :=
  match s.hs, s.failReason with
  | .idle, _ => .idle
  | .sent, _ => .pending
  | .acked, _ => .acked
  | .failed, .timeout => .timedOut
  | .failed, .rejected => .rejected
  | .failed, .transport => .transport
  | .failed, .none => .idle

/-- The reply POLL reports: present for `ST_ACKED` and `ST_REJECTED` (43_command_ack.md R179). -/
def pollReply (s : State) : Option Reply :=
  match pollStatus s with
  | .acked | .rejected => some { cw := s.rpCw, payload := s.rpPayload.take s.rpLen }
  | .idle | .pending | .timedOut | .transport => none

/-- POLL (43_command_ack.md R179): DRAIN, then the result of R83. -/
def poll (s : State) : Except Fault State := do
  let s ← drain s
  .ok (s.setResult (.poll (pollStatus s) s.pCw (pollReply s)))

/-- POLL of a host. -/
def execPoll (s : State) : Out := toOut (poll s.opStart)

/-! ### CANCEL -/

/-- CANCEL (43_command_ack.md R180). -/
def cancel (s : State) : State :=
  if s.hs = .sent then { s with hs := .idle, failReason := .none, sess := .streaming } else s

/-- CANCEL of a host. -/
def execCancel (s : State) : Out := .next (cancel s.opStart)

/-! ### XERR -/

/-- XERR (43_command_ack.md R181). -/
def xerr (s : State) : State := s.raise .transportError

/-- XERR of the transport. -/
def execXerr (s : State) : Out := .next (xerr s.opStart)

end Sys2Proof.Machine
end

