-- ==== Sys2Proof/Machine/Commands.lean ====
section
/-! DEFINITION. The 13 commands of 30_encoding.md R86: `ISSUE <mnemonic> [payload]` is ISSUE with the row's class, word,
`REPLY_OF` word and chk (R85). The payload layouts are open (92_eei_decisions.md D38): the payload is the operand. -/

namespace Sys2Proof.Machine

/-- ISSUE of a command of the vocabulary (30_encoding.md R85). -/
def issueCommand (m : Command) (payload : List Byte) (s : State) : State :=
  issue (commandClass m) (s.cfg.word m) (replyOf s.cfg (s.cfg.word m)) (commandChk m) payload s

/-- ENTER_CONFIG (30_encoding.md R86). -/
def execEnterConfig (payload : List Byte) (s : State) : Out := .next (issueCommand .enterConfig payload s.opStart)

/-- EXIT_CONFIG (30_encoding.md R86). -/
def execExitConfig (payload : List Byte) (s : State) : Out := .next (issueCommand .exitConfig payload s.opStart)

/-- READ_FIRMWARE (30_encoding.md R86). -/
def execReadFirmware (payload : List Byte) (s : State) : Out := .next (issueCommand .readFirmware payload s.opStart)

/-- WRITE_SERIAL (30_encoding.md R86). -/
def execWriteSerial (payload : List Byte) (s : State) : Out := .next (issueCommand .writeSerial payload s.opStart)

/-- READ_SERIAL (30_encoding.md R86). -/
def execReadSerial (payload : List Byte) (s : State) : Out := .next (issueCommand .readSerial payload s.opStart)

/-- WRITE_PARAMS (30_encoding.md R86). -/
def execWriteParams (payload : List Byte) (s : State) : Out := .next (issueCommand .writeParams payload s.opStart)

/-- READ_PARAMS (30_encoding.md R86). -/
def execReadParams (payload : List Byte) (s : State) : Out := .next (issueCommand .readParams payload s.opStart)

/-- WRITE_TRIGGER (30_encoding.md R86). -/
def execWriteTrigger (payload : List Byte) (s : State) : Out := .next (issueCommand .writeTrigger payload s.opStart)

/-- READ_TRIGGER (30_encoding.md R86). -/
def execReadTrigger (payload : List Byte) (s : State) : Out := .next (issueCommand .readTrigger payload s.opStart)

/-- WRITE_HOLD (30_encoding.md R86). -/
def execWriteHold (payload : List Byte) (s : State) : Out := .next (issueCommand .writeHold payload s.opStart)

/-- READ_HOLD (30_encoding.md R86). -/
def execReadHold (payload : List Byte) (s : State) : Out := .next (issueCommand .readHold payload s.opStart)

/-- AUTO_THRESHOLD (30_encoding.md R86). -/
def execAutoThreshold (payload : List Byte) (s : State) : Out := .next (issueCommand .autoThreshold payload s.opStart)

/-- SWITCH_OUTPUT (30_encoding.md R86). -/
def execSwitchOutput (payload : List Byte) (s : State) : Out := .next (issueCommand .switchOutput payload s.opStart)

end Sys2Proof.Machine
end

