-- ==== Sys2Proof/Machine/Sequences.lean ====
section
/-! DEFINITION. The host sequences ENTER_CONFIGURATION, EXIT_CONFIGURATION and APPLY_CONFIGURATION
(44_session_controller.md R209 to R213). They are what a host does over the block's operations, while the other
agents go on: the operand `sched` says what RX, TICK and XERR occur right before each step of the host, so every
interleaving is some schedule. The events of all operations of the sequence are delivered in order. Log entry 6. -/

namespace Sys2Proof.Machine

/-! ### The range checks of R213 -/

/-- Farthest gate 1 to 16, nearest gate 0 to 16, delay 10 to 120 s, the two frequencies 0.5 to 8 Hz in steps of 0.5 Hz;
the response speed is not checked (44_session_controller.md R213; log entry 18). -/
def generalInRange (g : GeneralParams) : Bool :=
  decide (1 ≤ g.farthestGate ∧ g.farthestGate ≤ 16) && decide (g.nearestGate ≤ 16) &&
  decide (10 ≤ g.unmannedDelay ∧ g.unmannedDelay ≤ 120) &&
  decide (5 ≤ g.statusFreq ∧ g.statusFreq ≤ 80 ∧ g.statusFreq % 5 = 0) &&
  decide (5 ≤ g.distanceFreq ∧ g.distanceFreq ≤ 80 ∧ g.distanceFreq % 5 = 0)

/-- One entry per gate, each 0 to 100 (44_session_controller.md R213). -/
def thresholdsInRange (c : Config) (t : List Nat) : Bool :=
  decide (t.length = c.maxGates) && t.all fun v => decide (v ≤ 100)

/-- Trigger factor 1 to 10, hold factor 1 to 10, scan time 30 to 600 s (44_session_controller.md R213). -/
def autoInRange (a : AutoParams) : Bool :=
  decide (1 ≤ a.triggerFactor ∧ a.triggerFactor ≤ 10) && decide (1 ≤ a.holdFactor ∧ a.holdFactor ≤ 10) &&
  decide (30 ≤ a.scanTime ∧ a.scanTime ≤ 600)

/-- At most 8 characters (44_session_controller.md R213). -/
def serialInRange (t : List Byte) : Bool := decide (t.length ≤ 8)

/-- Every value of a parameter set is in its range (44_session_controller.md R213). -/
def paramsInRange (c : Config) (ps : ParamSet) : Bool :=
  ps.general.all generalInRange && ps.trigger.all (thresholdsInRange c) && ps.hold.all (thresholdsInRange c) &&
  ps.auto.all autoInRange && ps.serial.all serialInRange

/-! ### The host's loop -/

/-- One operation of an agent other than the host. -/
def runEnvOp : EnvOp → State → Except Fault State
  | .rx b, s => receive b s
  | .tick, s => .ok (tick s)
  | .xerr, s => .ok (xerr s)

/-- Operations of the other agents, in order. -/
def runEnv : List EnvOp → State → Except Fault State
  | [], s => .ok s
  | e :: es, s => do
    let s ← runEnvOp e s
    runEnv es s

/-- What the other agents do before the next step of the host. -/
def nextSlot : Schedule → State → Except Fault (Schedule × State)
  | [], s => .ok ([], s)
  | es :: rest, s => do
    let s ← runEnv es s
    .ok (rest, s)

/-- AWAIT (44_session_controller.md R209): POLL until the status is not ST_PENDING. `none`: still pending when the
schedule is used up. -/
def await : Schedule → State → Except Fault (Option PollStatus × Schedule × State)
  | [], s => do
    let s ← poll s
    if pollStatus s = .pending then .ok (none, [], s) else .ok (some (pollStatus s), [], s)
  | es :: rest, s => do
    let s ← runEnv es s
    let s ← poll s
    if pollStatus s = .pending then await rest s else .ok (some (pollStatus s), rest, s)

/-- The error an ISSUE that did not answer OK ends a sequence with. -/
def issueError : OpResult → SeqError
  | .busy => .busy
  | _ => .invalidArgument

/-- Up to `n` attempts of one command (44_session_controller.md R210, COMMAND of R212); `last` is the error of the
attempt before. -/
def attempts (m : Command) (payload : List Byte) :
    Nat → SeqError → Schedule → State → Except Fault (SeqResult × Schedule × State)
  | 0, last, sched, s => .ok (.error last, sched, s)
  | n + 1, _, sched, s => do
    let (sched, s) ← nextSlot sched s
    let s := issueCommand m payload s
    if s.result = .ok then do
      let (r, sched, s) ← await sched s
      match r with
      | none => .ok (.waiting, sched, s)
      | some .acked => .ok (.success, sched, s)
      | some st => attempts m payload n (.status st) sched s
    else .ok (.error (issueError s.result), sched, s)

/-- COMMAND (44_session_controller.md R212): at most `N_ATTEMPTS` attempts. -/
def runCommand (m : Command) (payload : List Byte) (sched : Schedule) (s : State) :
    Except Fault (SeqResult × Schedule × State) :=
  attempts m payload s.cfg.nAttempts .notAttempted sched s

/-- "if hs = SENT: CANCEL()" (44_session_controller.md R211), one step of the host. -/
def cancelPending (sched : Schedule) (s : State) : Except Fault (Schedule × State) := do
  let (sched, s) ← nextSlot sched s
  .ok (sched, cancel s)

/-- EXIT_CONFIGURATION (44_session_controller.md R211). -/
def runExit (payload : List Byte) (sched : Schedule) (s : State) : Except Fault (SeqResult × Schedule × State) := do
  let (sched, s) ← cancelPending sched s
  runCommand .exitConfig payload sched s

/-- The groups of APPLY_CONFIGURATION that are present, in the order they are written (44_session_controller.md
R212). -/
def groupsOf (ps : ParamSet) (p : Payloads) : List (Command × List Byte) :=
  (if ps.general.isSome then [(.writeParams, p.writeParams)] else []) ++
  (if ps.trigger.isSome then [(.writeTrigger, p.writeTrigger)] else []) ++
  (if ps.hold.isSome then [(.writeHold, p.writeHold)] else []) ++
  (if ps.auto.isSome then [(.autoThreshold, p.autoThreshold)] else [])

/-- The writes of APPLY_CONFIGURATION, each required to succeed before the next (44_session_controller.md R212). -/
def runGroups : List (Command × List Byte) → Schedule → State → Except Fault (SeqResult × Schedule × State)
  | [], sched, s => .ok (.success, sched, s)
  | (m, payload) :: rest, sched, s => do
    let (r, sched, s) ← runCommand m payload sched s
    match r with
    | .success => runGroups rest sched s
    | r => .ok (r, sched, s)

/-- ENTER_CONFIGURATION and then the writes: the part of APPLY_CONFIGURATION before its exit step. -/
def runEnterAndGroups (ps : ParamSet) (p : Payloads) (sched : Schedule) (s : State) :
    Except Fault (SeqResult × Schedule × State) := do
  let (r, sched, s) ← runCommand .enterConfig p.enter sched s
  match r with
  | .success => runGroups (groupsOf ps p) sched s
  | r => .ok (r, sched, s)

/-- "success if first_error = none else first_error", with the exit step's own error as the last
(44_session_controller.md R212). -/
def firstError (before exit : SeqResult) : SeqResult :=
  match exit, before with
  | .waiting, _ => .waiting
  | _, .error e => .error e
  | r, _ => r

/-- APPLY_CONFIGURATION after its range check (44_session_controller.md R212): the exit step is always executed, unless
the host still waits. -/
def runApply (ps : ParamSet) (p : Payloads) (sched : Schedule) (s : State) :
    Except Fault (SeqResult × Schedule × State) := do
  let (r, sched, s) ← runEnterAndGroups ps p sched s
  match r with
  | .waiting => .ok (.waiting, sched, s)
  | r => do
    let (e, sched, s) ← runExit p.exit sched s
    .ok (firstError r e, sched, s)

/-- The outcome of a host sequence: the state it ends in, with the sequence's result. -/
def seqOut : Except Fault (SeqResult × Schedule × State) → Out
  | .ok (r, _, s) => .next (s.setResult (.sequence r))
  | .error f => .fault f

/-- ENTER_CONFIGURATION (44_session_controller.md R210). -/
def execEnterConfiguration (payload : List Byte) (sched : Schedule) (s : State) : Out :=
  seqOut (runCommand .enterConfig payload sched s.opStart)

/-- EXIT_CONFIGURATION (44_session_controller.md R211). -/
def execExitConfiguration (payload : List Byte) (sched : Schedule) (s : State) : Out :=
  seqOut (runExit payload sched s.opStart)

/-- APPLY_CONFIGURATION (44_session_controller.md R212): a value out of range is refused before anything is sent. -/
def execApplyConfiguration (ps : ParamSet) (payloads : Payloads) (sched : Schedule) (s : State) : Out :=
  if paramsInRange s.cfg ps then seqOut (runApply ps payloads sched s.opStart)
  else .next (s.opStart.setResult (.sequence (.error .invalidArgument)))

end Sys2Proof.Machine
end

