-- ==== Sys2Proof/Machine/Dispatch.lean ====
section
/-! DEFINITION. One arm per row of spec/opcode_table.json, each one direct call of its meaning. -/

namespace Sys2Proof.Machine

def exec (i : Instr) (s : State) : Host.Outcome State Fault Refusal :=
  match i with
  | .tlmMin state distanceCm => Sys2Proof.Machine.execTlmMin state distanceCm s
  | .tlmStd frameType state movingCm stationaryCm reserved energy => Sys2Proof.Machine.execTlmStd frameType state movingCm stationaryCm reserved energy s
  | .cfgFrame cw payload => Sys2Proof.Machine.execCfgFrame cw payload s
  | .cfgFrameCk cw payload => Sys2Proof.Machine.execCfgFrameCk cw payload s
  | .nop => Sys2Proof.Machine.execNop s
  | .rx b => Sys2Proof.Machine.execRx b s
  | .tick => Sys2Proof.Machine.execTick s
  | .xerr => Sys2Proof.Machine.execXerr s
  | .issue cls cw expect chk payload => Sys2Proof.Machine.execIssue cls cw expect chk payload s
  | .poll => Sys2Proof.Machine.execPoll s
  | .cancel => Sys2Proof.Machine.execCancel s
  | .setTfam m => Sys2Proof.Machine.execSetTfam m s
  | .reservedOp code => Sys2Proof.Machine.execReservedOp code s
  | .reset => Sys2Proof.Machine.execReset s
  | .feed b => Sys2Proof.Machine.execFeed b s
  | .extract => Sys2Proof.Machine.execExtract s
  | .drain => Sys2Proof.Machine.execDrain s
  | .handleCfg w => Sys2Proof.Machine.execHandleCfg w s
  | .encode cw payload => Sys2Proof.Machine.execEncode cw payload s
  | .checksum bytes => Sys2Proof.Machine.execChecksum bytes s
  | .matchMarker bytes off m => Sys2Proof.Machine.execMatchMarker bytes off m s
  | .decodeMin w => Sys2Proof.Machine.execDecodeMin w s
  | .decodeStd w => Sys2Proof.Machine.execDecodeStd w s
  | .family => Sys2Proof.Machine.execFamily s
  | .presence state => Sys2Proof.Machine.execPresence state s
  | .enterConfig payload => Sys2Proof.Machine.execEnterConfig payload s
  | .exitConfig payload => Sys2Proof.Machine.execExitConfig payload s
  | .readFirmware payload => Sys2Proof.Machine.execReadFirmware payload s
  | .writeSerial payload => Sys2Proof.Machine.execWriteSerial payload s
  | .readSerial payload => Sys2Proof.Machine.execReadSerial payload s
  | .writeParams payload => Sys2Proof.Machine.execWriteParams payload s
  | .readParams payload => Sys2Proof.Machine.execReadParams payload s
  | .writeTrigger payload => Sys2Proof.Machine.execWriteTrigger payload s
  | .readTrigger payload => Sys2Proof.Machine.execReadTrigger payload s
  | .writeHold payload => Sys2Proof.Machine.execWriteHold payload s
  | .readHold payload => Sys2Proof.Machine.execReadHold payload s
  | .autoThreshold payload => Sys2Proof.Machine.execAutoThreshold payload s
  | .switchOutput payload => Sys2Proof.Machine.execSwitchOutput payload s
  | .enterConfiguration payload sched => Sys2Proof.Machine.execEnterConfiguration payload sched s
  | .exitConfiguration payload sched => Sys2Proof.Machine.execExitConfiguration payload sched s
  | .applyConfiguration ps payloads sched => Sys2Proof.Machine.execApplyConfiguration ps payloads sched s

end Sys2Proof.Machine
end

