-- ==== Sys2Proof/Machine/Fetch.lean ====
section
/-! DEFINITION. How the next operation is taken from the requests the agents have presented, and how agents present
them. The block has no program counter (10_state.md R24): which operation comes next is chosen by the agents
(00_scope.md R5). Log entries 2, 22, 23. -/

namespace Sys2Proof.Machine

/-- What stands at the head of the queue. -/
inductive Fetched where
  | idle                                -- no request has been presented
  | request (i : Instr) (rest : List Byte)
  | bad (e : DecodeError)
deriving DecidableEq, Repr

/-- The next request. -/
def fetch (s : State) : Fetched :=
  match s.inq with
  | [] => .idle
  | _ :: _ => match decode s.cfg s.inq with
    | .ok (i, rest) => .request i rest
    | .error e => .bad e

/-- The request taken off the queue. -/
def State.dequeue (rest : List Byte) (s : State) : State := { s with inq := rest }

/-- One step: the next request is performed; without one nothing changes, as for NOP. -/
def stepOf (s : State) : Out :=
  match fetch s with
  | .idle => .next s.opStart
  | .request i rest => exec i (s.dequeue rest)
  | .bad e => .refused (.noRequest e)

/-- The bytes of the instruction that a table word stands for, without the zeros after its last operand; all bytes
where the decoder refuses them. -/
def tableRequest (c : Config) (nbits w : Nat) : List Byte :=
  let bs := tableBytes nbits w
  match decode c bs with
  | .ok (_, rest) => bs.take (bs.length - rest.length)
  | .error _ => bs

/-- Bytes placed at the head of the queue. -/
def placeFirst (bs : List Byte) (s : State) : State := { s with inq := bs ++ s.inq }

/-! ### Requests presented at the same instant -/

/-- The fixed order of simultaneous requests: RESET, XERR, TICK, RX, CANCEL, ISSUE, SET_TFAM, POLL (60_exceptions.md
R245). A frame is an RX and a command an ISSUE; what R245 does not list comes last (log entry 23). -/
def priority : Instr → Nat
  | .reset => 0
  | .xerr => 1
  | .tick => 2
  | .rx _ | .tlmMin _ _ | .tlmStd _ _ _ _ _ _ | .cfgFrame _ _ | .cfgFrameCk _ _ => 3
  | .cancel => 4
  | .issue _ _ _ _ _ | .enterConfig _ | .exitConfig _ | .readFirmware _ | .writeSerial _ | .readSerial _
  | .writeParams _ | .readParams _ | .writeTrigger _ | .readTrigger _ | .writeHold _ | .readHold _
  | .autoThreshold _ | .switchOutput _ => 5
  | .setTfam _ => 6
  | .poll => 7
  | .nop | .reservedOp _ | .feed _ | .extract | .drain | .handleCfg _ | .encode _ _ | .checksum _
  | .matchMarker _ _ _ | .decodeMin _ | .decodeStd _ | .family | .presence _ | .enterConfiguration _ _
  | .exitConfiguration _ _ | .applyConfiguration _ _ _ => 8

/-- A request put before the first one of a later place in the order. -/
def insertRequest (i : Instr) : List Instr → List Instr
  | [] => [i]
  | j :: js => if priority i ≤ priority j then i :: j :: js else j :: insertRequest i js

/-- Simultaneous requests in the order of R245; requests of one place in the order keep theirs. -/
def arbitrate : List Instr → List Instr
  | [] => []
  | i :: is => insertRequest i (arbitrate is)

/-- The bytes of requests, one after the other. -/
def requestBytes (c : Config) (is : List Instr) : List Byte := is.flatMap fun i => (encode c i).getD []

/-- Agents present requests at one instant: they enter the queue in the order of R245. -/
def State.present (is : List Instr) (s : State) : State :=
  { s with inq := s.inq ++ requestBytes s.cfg (arbitrate is) }

end Sys2Proof.Machine
end

