-- ==== Sys2Proof/Machine/Step.lean ====
section
/-! DEFINITION. The step function. The block itself never halts (00_scope.md R13): with no request a step changes
nothing. -/

namespace Sys2Proof.Machine

/-- One step of the machine. -/
def step : State → Host.Outcome State Fault Refusal := stepOf

/-- The instruction of a table word as the next request; the rest of the queue stays behind it. -/
def State.withFetchWord (s : State) (nbits w : Nat) : State := placeFirst (tableRequest s.cfg nbits w) s

end Sys2Proof.Machine
end

