-- ==== Sys2Proof/Machine/Sinks.lean ====
section
/-! DEFINITION. The sink calls that telemetry events stand for (41_telemetry_decoder.md R126, 60_exceptions.md R253).
The sinks are outside the block; these are functions of its events. -/

namespace Sys2Proof.Machine

/-- A call on the sensor sinks (41_telemetry_decoder.md R126). -/
inductive SinkCall where
  | presence (p : Bool)
  | distance (cm : Word16)
  | gateEnergy (g : Nat) (energy : Byte)
deriving DecidableEq, Repr

/-- `publish(g, energy[g])` for ascending `g`, from gate `g` on. -/
def gateCalls (g : Nat) : List Byte → List SinkCall
  | [] => []
  | e :: es => .gateEnergy g e :: gateCalls (g + 1) es

/-- The calls one event stands for; events that are no telemetry stand for none (41_telemetry_decoder.md R126). -/
def sinkCalls : Event → List SinkCall
  | .tlmMin r => [.presence r.presence, .distance r.distanceCm]
  | .tlmStd r => .presence r.presence :: gateCalls 0 r.energy
  | .ackDone _ _ | .cmdRejected _ _ | .cmdTimeout | .cmdXerr | .stray _ _ | .diag _ | .flushInput | .tx _ => []

end Sys2Proof.Machine
end

