-- ==== Sys2Proof/Safety.lean ====
section
/-! DEFINITION. What counts as a good state and as a run: the invariants of 10_state.md R31, quiescence
(42_stream_synchronizer.md R151), runs and what they observe (00_scope.md R13), and which events and instructions a
statement speaks of. -/

namespace Sys2Proof.Machine

/-- The invariants of 10_state.md R31 (a) to (f), with the bound that (g) and 42_stream_synchronizer.md R153 give at
the end of every operation. (e) holds by the types of `sess` and `pClass`. -/
structure Inv (s : State) : Prop where
  /-- the build's parameters satisfy 00_scope.md R7 -/
  cfg_wf : s.cfg.Wf
  /-- (a), (g) -/
  buf_room : s.buf.length < s.cfg.cap
  /-- (b) -/
  awaiting_iff_sent : s.sess = .awaitingAck ↔ s.hs = .sent
  /-- (c) -/
  timer_runs : s.hs = .sent → 1 ≤ s.tmoCnt
  /-- (c), for every handler state -/
  timer_bound : s.tmoCnt ≤ s.cfg.timeoutTicks
  /-- (d) -/
  reason_iff_failed : s.failReason ≠ .none ↔ s.hs = .failed
  /-- (f) -/
  reply_matches : s.rpValid = true → s.rpCw = s.pExpect
  /-- (f) -/
  reply_fits : s.rpLen + 9 ≤ s.cfg.cap
  /-- the reply registers hold the `rp_len` bytes of the reply (10_state.md R26) -/
  reply_len : s.rpPayload.length = s.rpLen

/-- A state is quiescent when EXTRACT returns `None` and leaves `buf` unchanged (42_stream_synchronizer.md R151). -/
def Quiescent (s : State) : Prop := ∃ t, extract s = .ok (t, none) ∧ t.buf = s.buf

/-- The operations in order; `none` where one stops (00_scope.md R13: none does). -/
def runOps : List Instr → State → Option State
  | [], s => some s
  | i :: is, s => match exec i s with
    | .next t => runOps is t
    | .fault _ => none
    | .refused _ => none

/-- What a run observes: for each operation in order its result and its events (00_scope.md R13). -/
def observations : List Instr → State → List (OpResult × List Event)
  | [], _ => []
  | i :: is, s => match exec i s with
    | .next t => (t.result, t.events) :: observations is t
    | .fault _ => []
    | .refused _ => []

/-- `TICK*n` (30_encoding.md R85). -/
def ticks (n : Nat) : List Instr := List.replicate n .tick

/-- `RXN b0 b1 ...` (30_encoding.md R85). -/
def rxn (bs : List Byte) : List Instr := bs.map .rx

/-- A telemetry event (00_scope.md R11). -/
def Event.isTelemetry : Event → Bool
  | .tlmMin _ | .tlmStd _ => true
  | .ackDone _ _ | .cmdRejected _ _ | .cmdTimeout | .cmdXerr | .stray _ _ | .diag _ | .flushInput | .tx _ => false

/-- An event that a configuration frame causes (00_scope.md R11). -/
def Event.isReply : Event → Bool
  | .ackDone _ _ | .cmdRejected _ _ | .stray _ _ => true
  | .tlmMin _ | .tlmStd _ | .cmdTimeout | .cmdXerr | .diag _ | .flushInput | .tx _ => false

/-- An event to the transport (00_scope.md R11). -/
def Event.toTransport : Event → Bool
  | .flushInput | .tx _ => true
  | .tlmMin _ | .tlmStd _ | .ackDone _ _ | .cmdRejected _ _ | .cmdTimeout | .cmdXerr | .stray _ _ | .diag _ => false

/-- The instructions that are ISSUE: the operation and the 13 commands (30_encoding.md R85). -/
def isIssue (i : Instr) : Bool :=
  match i with
  | .issue _ _ _ _ _ => true
  | i => i.command?.isSome

end Sys2Proof.Machine
end

