-- ==== Sys2Proof/Certificates/Slice0/Obligations.lean ====
section
/-! DEFINITION. The statements for the provers. The helper definitions write the spec's rules down a second time, from
its text and without the model's own scan, header, tail and reply functions. -/

namespace Sys2Proof.Spec

open Sys2Proof.Machine

/-! ### The rules, written a second time -/

/-- The status code of a reply payload is `STATUS_OK` (43_command_ack.md R176). -/
def statusAccepted (c : Config) (payload : List Byte) : Prop :=
  c.statusLen ≤ payload.length ∧
    ((List.range c.statusLen).map fun k => (payload.getD k 0).toNat * 256 ^ k).sum = c.statusOk

/-- What a valid configuration frame with command word `cw` and this payload does to the block, its events and result
being those of an operation that does nothing else (43_command_ack.md R175, R176, R177). -/
noncomputable def replyEffect (cw : Word16) (payload : List Byte) (s : State) : State :=
  open scoped Classical in
  if s.hs = .sent ∧ cw = s.pExpect then
    if s.pChk = false ∨ statusAccepted s.cfg payload then
      { s with
        rpCw := cw, rpLen := payload.length, rpPayload := payload
        hs := .acked
        sess := match s.pClass with
          | .enter => .configuring
          | .exit => .streaming
          | .other => if s.pPrior = true then .configuring else .streaming
        events := [.ackDone cw payload], result := .none }
    else
      { s with
        rpCw := cw, rpLen := payload.length, rpPayload := payload
        hs := .failed, failReason := .rejected, sess := .streaming
        events := [.cmdRejected cw payload], result := .none }
  else
    { s with
      events := (if s.hs = .sent then [.diag .invalidReply] else []) ++ [.stray cw payload]
      result := .none }

/-- PRESENCE (41_telemetry_decoder.md R123). -/
def presenceBit (c : Config) (state : Byte) : Bool :=
  match c.presenceRule with
  | .ge2 => decide (state.toNat ≥ 2)
  | .ne0 => decide (state.toNat ≠ 0)

/-- What the scan decides about a candidate that starts at offset 0. -/
inductive Verdict where
  | wait
  | reject (d : DiagCode)
  | accept (T : Nat)

/-- The length test and the tail test on a candidate (42_stream_synchronizer.md R146, R147): `L` from the two bytes
after the marker, the total length, and the terminator at the place the total implies. -/
def verdict (c : Config) (f : Family) (buf : List Byte) : Verdict :=
  let l0 := (buf.getD 4 0).toNat
  let l1 := (buf.getD 5 0).toNat
  match f with
  | .min =>
    if buf.length < 5 then .wait else if buf.getD 4 0 = 0x62 then .accept 5 else .reject .formatError
  | .std =>
    if buf.length < 6 then .wait
    else if (if c.stdBigEndian then 256 * l0 + l1 else l0 + 256 * l1) ≠ 7 + c.maxGates then .reject .formatError
    else if buf.length < 17 + c.maxGates then .wait
    else if (buf.drop (13 + c.maxGates)).take 4 = [0xF8, 0xF7, 0xF6, 0xF5] then .accept (17 + c.maxGates)
    else .reject .formatError
  | .cfg =>
    if buf.length < 6 then .wait
    else match c.cfgTerm with
      | .marker =>
        if l0 + 256 * l1 < 2 ∨ 10 + (l0 + 256 * l1) > c.cap then .reject .formatError
        else if buf.length < 10 + (l0 + 256 * l1) then .wait
        else if (buf.drop (6 + (l0 + 256 * l1))).take 4 = [0x04, 0x03, 0x02, 0x01] then
          .accept (10 + (l0 + 256 * l1))
        else .reject .formatError
      | .checksum =>
        if l0 + 256 * l1 < 2 ∨ 7 + (l0 + 256 * l1) > c.cap then .reject .formatError
        else if buf.length < 7 + (l0 + 256 * l1) then .wait
        else if (buf.getD (6 + (l0 + 256 * l1)) 0).toNat =
            ((buf.take (6 + (l0 + 256 * l1))).map BitVec.toNat).sum % 256 then
          .accept (7 + (l0 + 256 * l1))
        else .reject .checksumError

/-- The start markers (00_scope.md R8). -/
def start : Family → List Byte
  | .min => [0x6E]
  | .std => [0xF4, 0xF3, 0xF2, 0xF1]
  | .cfg => [0xFD, 0xFC, 0xFB, 0xFA]

/-- What one EXTRACT does: how many bytes it removes, what it reports, what it returns. -/
structure Scan where
  removed : Nat
  events : List Event
  found : Option (List Byte)

/-- One more byte removed, after these events. -/
def Scan.after (events : List Event) (r : Scan) : Scan := ⟨r.removed + 1, events ++ r.events, r.found⟩

/-- EXTRACT as one walk over the bytes from left to right (42_stream_synchronizer.md R142 to R148): where the start
marker stands the candidate is judged; a rejected candidate costs one byte and a diagnostic; a byte that starts no
marker is dropped, unless all that is left is the beginning of a marker. -/
def scanBytes (c : Config) (f : Family) : List Byte → Scan
  | [] => ⟨0, [], none⟩
  | b :: bs =>
    if start f <+: (b :: bs) then
      match verdict c f (b :: bs) with
      | .wait => ⟨0, [], none⟩
      | .reject d => (scanBytes c f bs).after [.diag d]
      | .accept T => ⟨T, [], some ((b :: bs).take T)⟩
    else if (b :: bs) <+: start f then ⟨0, [], none⟩
    else (scanBytes c f bs).after []

/-- The family whose scan recognises a frame row (30_encoding.md R70). -/
def rowFamily : Instr → Option Family
  | .tlmMin _ _ => some .min
  | .tlmStd _ _ _ _ _ _ => some .std
  | .cfgFrame _ _ | .cfgFrameCk _ _ => some .cfg
  | _ => none

/-- What the arrival of one frame does once EXTRACT has returned it: one telemetry event, or the reply parser
(42_stream_synchronizer.md R149). -/
noncomputable def frameEffect (i : Instr) (s : State) : State :=
  match i with
  | .tlmMin state d => { s with
      events := [.tlmMin { state := state, presence := presenceBit s.cfg state, distanceCm := d }], result := .none }
  | .tlmStd ft st mov sta res energy => { s with
      events := [.tlmStd { frameType := ft, state := st, presence := presenceBit s.cfg st, movingCm := mov,
                           stationaryCm := sta, reserved := res, energy := energy }]
      result := .none }
  | .cfgFrame cw payload | .cfgFrameCk cw payload => replyEffect cw payload s
  | _ => s

/-- The catalog ranges of 44_session_controller.md R213, one line per parameter. Frequencies are in tenths of a
hertz. -/
structure CatalogOk (c : Config) (ps : ParamSet) : Prop where
  farthest : ∀ g ∈ ps.general, 1 ≤ g.farthestGate ∧ g.farthestGate ≤ 16
  nearest : ∀ g ∈ ps.general, g.nearestGate ≤ 16
  delay : ∀ g ∈ ps.general, 10 ≤ g.unmannedDelay ∧ g.unmannedDelay ≤ 120
  status : ∀ g ∈ ps.general, ∃ k, 1 ≤ k ∧ k ≤ 16 ∧ g.statusFreq = 5 * k
  distance : ∀ g ∈ ps.general, ∃ k, 1 ≤ k ∧ k ≤ 16 ∧ g.distanceFreq = 5 * k
  trigger : ∀ t ∈ ps.trigger, t.length = c.maxGates ∧ ∀ v ∈ t, v ≤ 100
  hold : ∀ t ∈ ps.hold, t.length = c.maxGates ∧ ∀ v ∈ t, v ≤ 100
  triggerFactor : ∀ a ∈ ps.auto, 1 ≤ a.triggerFactor ∧ a.triggerFactor ≤ 10
  holdFactor : ∀ a ∈ ps.auto, 1 ≤ a.holdFactor ∧ a.holdFactor ≤ 10
  scanTime : ∀ a ∈ ps.auto, 30 ≤ a.scanTime ∧ a.scanTime ≤ 600
  serial : ∀ t ∈ ps.serial, t.length ≤ 8

/-- The commands APPLY_CONFIGURATION sends before its exit, in order (44_session_controller.md R212). -/
def commandsToApply (ps : ParamSet) (p : Payloads) : List (Command × List Byte) :=
  (.enterConfig, p.enter) ::
    ((ps.general.toList.map fun _ => (.writeParams, p.writeParams)) ++
     (ps.trigger.toList.map fun _ => (.writeTrigger, p.writeTrigger)) ++
     (ps.hold.toList.map fun _ => (.writeHold, p.writeHold)) ++
     (ps.auto.toList.map fun _ => (.autoThreshold, p.autoThreshold)))

/-- The commands of a list one after the other, each required to succeed before the next: what they end with, the schedule
that is left and the state they leave. Where one fails, nothing after it is sent (44_session_controller.md R212; COMMAND is
`runCommand`). A failure with a status is that of the command's own last attempt. -/
inductive CommandsEnd : List (Command × List Byte) → Schedule → State → SeqResult → Schedule → State → Prop where
  | done (sched : Schedule) (s : State) : CommandsEnd [] sched s .success sched s
  | next {m : Command} {payload : List Byte} {rest : List (Command × List Byte)} {sched sched' left : Schedule}
      {s s' t : State} {r : SeqResult}
      (succeeds : runCommand m payload sched s = .ok (.success, sched', s'))
      (goes_on : CommandsEnd rest sched' s' r left t) : CommandsEnd ((m, payload) :: rest) sched s r left t
  | stop {m : Command} {payload : List Byte} {rest : List (Command × List Byte)} {sched left : Schedule}
      {s t : State} {r : SeqResult}
      (ends : runCommand m payload sched s = .ok (r, left, t)) (fails : r ≠ .success)
      (status : ∀ st, r = .error (.status st) → t.hs = .failed ∧ t.pCw = s.cfg.word m ∧ st = pollStatus t) :
      CommandsEnd ((m, payload) :: rest) sched s r left t

/-- The command word of an acknowledgement (00_scope.md R11, ACK_DONE). -/
def ackWord : Event → Option Word16
  | .ackDone cw _ => some cw
  | _ => none

/-- An exchange that a build can carry out: `tx` is the frame of the command, `rx` the frame of a reply with an accepted
status that fits the buffer. -/
structure Exchange (c : Config) (m : Command) (payload tx reply rx : List Byte) : Prop where
  fits : payload.length ≤ c.txPayloadMax
  sent : encodeFrame c (c.word m) payload = some tx
  answer : encodeFrame c (c.word m ||| c.replyFlag) reply = some rx
  room : rx.length ≤ c.cap
  accepted : statusAccepted c reply

/-- The requests in the order of 60_exceptions.md R245, written out: RESET, XERR, TICK, RX, CANCEL, ISSUE, SET_TFAM, POLL. A
frame is RX of its bytes and a command is an ISSUE (log entries 4, 5 and 23). -/
def fixedOrder : List (Instr → Bool) :=
  [fun i => decide (i = .reset),
   fun i => decide (i = .xerr),
   fun i => decide (i = .tick),
   fun i => match i with | .rx _ => true | i => (rowFamily i).isSome,
   fun i => decide (i = .cancel),
   fun i => isIssue i,
   fun i => match i with | .setTfam _ => true | _ => false,
   fun i => decide (i = .poll)]

/-- Simultaneous requests as R245 orders them, and behind them those it does not list (log entry 23). -/
def inFixedOrder (is : List Instr) : List Instr :=
  (fixedOrder.flatMap fun p => is.filter p) ++ is.filter fun i => fixedOrder.all fun p => !p i

/-- Two states that differ at most in the reply registers (10_state.md R26). -/
def SameButReply (s t : State) : Prop :=
  t = { s with rpCw := t.rpCw, rpLen := t.rpLen, rpPayload := t.rpPayload }

/-- Two states that differ at most in the registers a received byte may write: `buf`, the handler's control registers,
the reply registers, and the outputs (10_state.md R35, row RX; `pos` is the ghost of `buf`). -/
def OnlyReceived (s t : State) : Prop :=
  t = { s with
    buf := t.buf, sess := t.sess, hs := t.hs, failReason := t.failReason, rpCw := t.rpCw, rpLen := t.rpLen,
    rpPayload := t.rpPayload, pos := t.pos, events := t.events, result := t.result }

end Sys2Proof.Spec

open Sys2Proof Sys2Proof.Machine Sys2Proof.Spec

/-! ### Reset and control -/

/-- RESET in every state: the values of 10_state.md R32, no event, no result, and priority over every other operation
(70_reset_and_hazards.md R270). That the build's parameters and the queue, the model's own fields, stay is the model's
reading (log entry 26); so is a place in the order for instructions that 60_exceptions.md R245 does not list (log entry
23). -/
def Obligations.ResetLeavesTheSpecifiedValues : Prop :=
  ∀ s : State, ∃ t, exec .reset s = .next t ∧ t.buf = [] ∧ t.sess = .streaming ∧ t.hs = .idle ∧
    t.failReason = .none ∧ t.tmoCnt = 0 ∧ t.tfam = .min ∧ t.pClass = .other ∧ t.pCw = 0 ∧ t.pExpect = 0 ∧
    t.pChk = false ∧ t.pPrior = false ∧ t.rpCw = 0 ∧ t.rpLen = 0 ∧ t.rpValid = false ∧ t.pos = 0 ∧
    t.tlmPause = false ∧ t.busy = false ∧ t.events = [] ∧ t.result = .none ∧ t.cfg = s.cfg ∧ t.inq = s.inq ∧
    t.family = .min ∧ Quiescent t ∧ ∀ i, i ≠ .reset → priority .reset < priority i

/-- NOP changes no state and emits no event (30_encoding.md R81); the outputs are those of an operation without result
and events. -/
def Obligations.NopChangesNothing : Prop :=
  ∀ s : State, exec .nop s = .next { s with events := [], result := .none }

/-- A reserved code on the operation port: result `ILLEGAL_OP`, no other change (60_exceptions.md R240). That the code
stands in a byte of its own is the model's choice (log entry 3). -/
def Obligations.ReservedCodesAreIllegalOps : Prop :=
  ∀ (s : State) (code : BitVec 4), 8 ≤ code.toNat → code.toNat ≤ 14 →
    exec (.reservedOp code) s = .next { s with events := [], result := .illegalOp } ∧
    ∀ rest, s.inq = BitVec.ofNat 8 code.toNat :: rest →
      step s = .next { s with inq := rest, events := [], result := .illegalOp }

/-- SET_TFAM in every state: `tfam <- m`, no result, no event, nothing else; the next EXTRACT while Streaming scans for
the family written (44_session_controller.md R207). -/
def Obligations.SetTfamWritesOnlyTfam : Prop :=
  ∀ (s : State) (m : Tfam),
    exec (.setTfam m) s = .next { s with tfam := m, events := [], result := .none } ∧
    (s.sess = .streaming →
      State.family { s with tfam := m, events := [], result := .none } = match m with | .min => .min | .std => .std)

/-- No other operation changes `tfam` (10_state.md R28: "the block never changes it by itself"). -/
def Obligations.OnlySetTfamAndResetWriteTfam : Prop :=
  ∀ (i : Instr) (s t : State), exec i s = .next t → i ≠ .reset → (∀ m, i ≠ .setTfam m) → t.tfam = s.tfam

/-- FAMILY (44_session_controller.md R201): the select of the demultiplexer; it reads and changes nothing else. -/
def Obligations.FamilySelectsByModeAndTfam : Prop :=
  ∀ s : State, ∃ f, exec .family s = .next { s with events := [], result := .family f } ∧
    (f = .cfg ↔ s.sess ≠ .streaming) ∧ (f = .min ↔ s.sess = .streaming ∧ s.tfam = .min) ∧
    (f = .std ↔ s.sess = .streaming ∧ s.tfam = .std)

/-! ### Frame Codec -/

/-- CHECKSUM (40_frame_codec.md R102): the sum of the bytes modulo 256, whatever their order; 0 for the empty
sequence; nothing else changes. -/
def Obligations.ChecksumIsTheByteSum : Prop :=
  ∀ (bytes : List Byte) (s : State), ∃ k,
    exec (.checksum bytes) s = .next { s with events := [], result := .byte k } ∧
    k.toNat = (bytes.map BitVec.toNat).sum % 256 ∧
    ∀ other, bytes.Perm other → exec (.checksum other) s = .next { s with events := [], result := .byte k }

/-- MATCH (40_frame_codec.md R103): true exactly when the marker stands at the offset, all of it; nothing else
changes. -/
def Obligations.MatchFindsTheWholeMarker : Prop :=
  ∀ (bytes : List Byte) (off : Nat) (m : Marker) (s : State), ∃ b,
    exec (.matchMarker bytes off m) s = .next { s with events := [], result := .bit b } ∧
    (b = true ↔ ∃ pre post, bytes = pre ++ markerBytes m ++ post ∧ pre.length = off)

/-- ENCODE (40_frame_codec.md R101, R104): the frame byte by byte for a payload of at most 65533 bytes, under either
terminator; `InvalidArgument` above; nothing else changes. -/
def Obligations.EncodeBuildsTheFrame : Prop :=
  ∀ (cw : Word16) (payload : List Byte) (s : State),
    (payload.length ≤ 65533 → ∃ l0 l1 c0 c1 : Byte,
      l0.toNat = (2 + payload.length) % 256 ∧ l1.toNat = (2 + payload.length) / 256 ∧
      c0.toNat = cw.toNat % 256 ∧ c1.toNat = cw.toNat / 256 ∧
      (s.cfg.cfgTerm = .marker → exec (.encode cw payload) s = .next { s with
        events := []
        result := .bytes ([0xFD, 0xFC, 0xFB, 0xFA, l0, l1, c0, c1] ++ payload ++ [0x04, 0x03, 0x02, 0x01]) }) ∧
      (s.cfg.cfgTerm = .checksum → ∃ k : Byte,
        k.toNat = (([0xFD, 0xFC, 0xFB, 0xFA, l0, l1, c0, c1] ++ payload).map BitVec.toNat).sum % 256 ∧
        exec (.encode cw payload) s = .next { s with
          events := [], result := .bytes ([0xFD, 0xFC, 0xFB, 0xFA, l0, l1, c0, c1] ++ payload ++ [k]) })) ∧
    (65534 ≤ payload.length →
      exec (.encode cw payload) s = .next { s with events := [], result := .invalidArgument })

/-- Round trip of the codec (40_frame_codec.md R106): the bytes of ENCODE, fed to an empty buffer under the configuration
family, make EXTRACT return exactly that frame, and HANDLE_CFG reads back the same word and payload. -/
def Obligations.EncodedFramesAreExtractedWhole : Prop :=
  ∀ (s : State) (cw : Word16) (payload frame : List Byte), s.cfg.Wf → s.buf = [] → s.sess ≠ .streaming →
    (match s.cfg.cfgTerm with | .marker => 12 + payload.length | .checksum => 9 + payload.length) ≤ s.cfg.cap →
    encodeFrame s.cfg cw payload = some frame →
    runOps (frame.map .feed) s = some { s with buf := frame, events := [], result := .none } ∧
    exec .extract { s with buf := frame } =
      .next { s with buf := [], pos := s.pos + frame.length, events := [], result := .frame .cfg frame } ∧
    exec (.handleCfg frame) s = .next (replyEffect cw payload s)

/-! ### Telemetry Decoder -/

/-- PRESENCE (41_telemetry_decoder.md R123): `state >= 2` or `state != 0` by the build's rule, a function of the state byte
alone. -/
def Obligations.PresenceFollowsTheBuildsRule : Prop :=
  ∀ (state : Byte) (s : State), ∃ b,
    exec (.presence state) s = .next { s with events := [], result := .bit b } ∧
    (s.cfg.presenceRule = .ge2 → (b = true ↔ 2 ≤ state.toNat)) ∧
    (s.cfg.presenceRule = .ne0 → (b = true ↔ state.toNat ≠ 0))

/-- DECODE_MIN on every window of 5 bytes, and its round trip with the minimal frame (41_telemetry_decoder.md R121,
R127). -/
def Obligations.DecodeMinReadsTheWindow : Prop :=
  (∀ (w0 w1 w2 w3 w4 : Byte) (s : State), ∃ d : Word16, d.toNat = w2.toNat + 256 * w3.toNat ∧
    exec (.decodeMin [w0, w1, w2, w3, w4]) s = .next { s with
      events := []
      result := if w0 ≠ 0x6E ∨ w4 ≠ 0x62 then .formatError
        else .tlmMin { state := w1, presence := presenceBit s.cfg w1, distanceCm := d } }) ∧
  ∀ (state : Byte) (d : Word16) (s : State),
    exec (.decodeMin [0x6E, state, lo8 d.toNat, hi8 d.toNat, 0x62]) s = .next { s with
      events := [], result := .tlmMin { state := state, presence := presenceBit s.cfg state, distanceCm := d } }

/-- DECODE_STD on every window of `17 + G` bytes (41_telemetry_decoder.md R122). -/
def Obligations.DecodeStdReadsTheWindow : Prop :=
  ∀ (start4 tail4 energy : List Byte) (l0 l1 ft st m0 m1 n0 n1 res : Byte) (s : State),
    start4.length = 4 → tail4.length = 4 → energy.length = s.cfg.maxGates →
    ∃ mov sta : Word16, mov.toNat = u16std s.cfg m0 m1 ∧ sta.toNat = u16std s.cfg n0 n1 ∧
      exec (.decodeStd (start4 ++ [l0, l1, ft, st, m0, m1, n0, n1, res] ++ energy ++ tail4)) s = .next { s with
        events := []
        result :=
          if start4 ≠ [0xF4, 0xF3, 0xF2, 0xF1] ∨ u16std s.cfg l0 l1 ≠ 7 + s.cfg.maxGates ∨
              tail4 ≠ [0xF8, 0xF7, 0xF6, 0xF5] then .formatError
          else .tlmStd { frameType := ft, state := st, presence := presenceBit s.cfg st, movingCm := mov,
                         stationaryCm := sta, reserved := res, energy := energy } }

/-- The sink calls of the telemetry events, in order (41_telemetry_decoder.md R126). -/
def Obligations.SinkCallsFollowTheEvents : Prop :=
  (∀ r : TlmMin, sinkCalls (.tlmMin r) = [.presence r.presence, .distance r.distanceCm]) ∧
  (∀ r : TlmStd, sinkCalls (.tlmStd r) =
    .presence r.presence :: r.energy.mapIdx fun g e => .gateEnergy g e) ∧
  ∀ e : Event, e.isTelemetry = false → sinkCalls e = []

/-! ### Stream Synchronizer -/

/-- FEED (42_stream_synchronizer.md R141): append, or on a full buffer keep the three newest bytes and the new one, with
`DIAG(OVERFLOW)`; nothing else changes. -/
def Obligations.FeedAppendsOrTruncates : Prop :=
  ∀ (s : State) (b : Byte), s.cfg.Wf →
    (s.buf.length < s.cfg.cap →
      exec (.feed b) s = .next { s with buf := s.buf ++ [b], events := [], result := .none }) ∧
    (s.buf.length = s.cfg.cap →
      exec (.feed b) s = .next { s with
        buf := s.buf.drop (s.cfg.cap - 3) ++ [b], pos := s.pos + (s.cfg.cap + 1 - 4)
        events := [.diag .overflow], result := .none })

/-- EXTRACT, with its search, its retention rule and its recovery, is one walk over the bytes from left to right
(42_stream_synchronizer.md R142 to R148); it always answers, and it changes only `buf`, `pos` and the outputs. -/
def Obligations.ExtractIsOneLeftToRightScan : Prop :=
  ∀ (s : State) (r : Scan), r = scanBytes s.cfg s.family s.buf →
    exec .extract s = .next { s with
      buf := s.buf.drop r.removed, pos := s.pos + r.removed, events := r.events
      result := match r.found with | some w => .frame s.family w | none => .noFrame }

/-- Leading noise that holds no start marker costs nothing: the frame behind it is extracted, without a diagnostic, and
the bytes after it stay (42_stream_synchronizer.md R144, R155). -/
def Obligations.FrameBehindNoiseIsFound : Prop :=
  ∀ (s : State) (i : Instr) (noise frame rest : List Byte), s.cfg.Wf → i.wellFormed s.cfg = true →
    rowFamily i = some s.family → encode s.cfg i = some frame → s.buf = noise ++ frame ++ rest →
    (∀ off < noise.length, ¬ Spec.start s.family <+: s.buf.drop off) →
    exec .extract s = .next { s with
      buf := rest, pos := s.pos + noise.length + frame.length, events := [], result := .frame s.family frame }

/-- DRAIN answers in every state and runs to quiescence; a second DRAIN changes nothing (42_stream_synchronizer.md R149,
R151, R152); it writes only what a received byte may write (10_state.md R35), and takes bytes off the front of `buf` alone. It
is the loop of R149: where EXTRACT returns nothing it ends; a frame that EXTRACT returns, under the family of that moment, has
its effect, and DRAIN goes on from the state this leaves; the events come in that order. -/
def Obligations.DrainRunsToQuiescence : Prop :=
  ∀ s : State, ∃ t u, exec .drain s = .next t ∧ Quiescent t ∧ OnlyReceived s t ∧ t.result = .none ∧
    t.pos + t.buf.length = s.pos + s.buf.length ∧ t.buf = s.buf.drop (t.pos - s.pos) ∧
    exec .drain t = .next { t with events := [] } ∧
    exec .extract s = .next u ∧
    (u.result = .noFrame ∧ t = { u with result := .none } ∨
     ∃ i w v, u.result = .frame s.family w ∧ rowFamily i = some s.family ∧ i.wellFormed s.cfg = true ∧
       encode s.cfg i = some w ∧ exec .drain (frameEffect i u) = .next v ∧
       t = { v with events := u.events ++ (frameEffect i u).events ++ v.events })

/-- RX answers in every state and for every byte; the state after it is quiescent with room for the next byte
(10_state.md R31 (g)), every byte fed is either still in `buf` or counted by `pos` (R24), what is left in `buf` is the end of what stood there and the
new byte, and only the registers of R35 are written. -/
def Obligations.RxRunsToQuiescence : Prop :=
  ∀ (b : Byte) (s : State), ∃ t, exec (.rx b) s = .next t ∧ Quiescent t ∧ OnlyReceived s t ∧ t.result = .none ∧
    t.pos + t.buf.length = s.pos + s.buf.length + 1 ∧ t.buf = (s.buf ++ [b]).drop (t.pos - s.pos) ∧ (s.cfg.Wf → t.buf.length < t.cfg.cap)

/-- RX is FEED and then DRAIN (42_stream_synchronizer.md R150): one after the other they make the same state, and RX
delivers the events of both in order. -/
def Obligations.RxIsFeedThenDrain : Prop :=
  ∀ (b : Byte) (s t u v : State), exec (.rx b) s = .next t → exec (.feed b) s = .next u → exec .drain u = .next v →
    t = { v with events := u.events ++ v.events }

/-- A telemetry frame of the active family that reaches an empty buffer is decoded and delivered once
(42_stream_synchronizer.md R150, 41_telemetry_decoder.md R121): the minimal frame. -/
def Obligations.MinimalFrameIsDelivered : Prop :=
  ∀ (s : State) (state : Byte) (d : Word16), s.cfg.Wf → s.buf = [] → s.sess = .streaming → s.tfam = .min →
    exec (.tlmMin state d) s = .next { s with
      pos := s.pos + 5
      events := [.tlmMin { state := state, presence := presenceBit s.cfg state, distanceCm := d }]
      result := .none }

/-- The same for the standard frame, under either byte order and any number of gates (41_telemetry_decoder.md R122). -/
def Obligations.StandardFrameIsDelivered : Prop :=
  ∀ (s : State) (ft st : Byte) (mov sta : Word16) (res : Byte) (energy : List Byte), s.cfg.Wf → s.buf = [] →
    s.sess = .streaming → s.tfam = .std → energy.length = s.cfg.maxGates →
    exec (.tlmStd ft st mov sta res energy) s = .next { s with
      pos := s.pos + (17 + s.cfg.maxGates)
      events := [.tlmStd { frameType := ft, state := st, presence := presenceBit s.cfg st, movingCm := mov,
                           stationaryCm := sta, reserved := res, energy := energy }]
      result := .none }

/-- A configuration frame of the build that fits the buffer and reaches it empty under the configuration family is handled
once, whatever its payload holds (42_stream_synchronizer.md R146, R147, R149; 43_command_ack.md R175 to R177). -/
def Obligations.ConfigurationFrameIsHandled : Prop :=
  ∀ (s : State) (cw : Word16) (payload : List Byte), s.cfg.Wf → s.buf = [] → s.sess ≠ .streaming →
    (s.cfg.cfgTerm = .marker → 12 + payload.length ≤ s.cfg.cap →
      exec (.cfgFrame cw payload) s =
        .next (replyEffect cw payload { s with pos := s.pos + (12 + payload.length) })) ∧
    (s.cfg.cfgTerm = .checksum → 9 + payload.length ≤ s.cfg.cap →
      exec (.cfgFrameCk cw payload) s =
        .next (replyEffect cw payload { s with pos := s.pos + (9 + payload.length) }))

/-- While fewer than all bytes of a frame of the active family have arrived nothing happens and nothing is removed,
wherever the frame is split (42_stream_synchronizer.md R147 (c), R154). -/
def Obligations.PartOfAFrameWaits : Prop :=
  ∀ (s : State) (i : Instr) (frame : List Byte) (k : Nat), s.cfg.Wf → i.wellFormed s.cfg = true →
    rowFamily i = some s.family → encode s.cfg i = some frame → s.buf = [] → 0 < k → k < frame.length →
    runOps (rxn (frame.take k)) s = some { s with buf := frame.take k, events := [], result := .none }

/-- The overflow branch of FEED is never taken by an operation (42_stream_synchronizer.md R153). -/
def Obligations.NoStepOverflows : Prop :=
  ∀ s t : State, Inv s → step s = .next t → Event.diag .overflow ∉ t.events

/-! ### Command/ACK Handler -/

/-- ISSUE accepted (43_command_ack.md R172): flush, then the frame of ENCODE, the `p_*` registers, the timer, `hs` and
`sess`; the reply registers are no longer valid; nothing else changes. -/
def Obligations.IssueSendsAndWaits : Prop :=
  ∀ (s : State) (cls : BitVec 2) (k : CmdClass) (cw ex : Word16) (chk : Bool) (payload frame : List Byte),
    s.hs ≠ .sent → cls = classCode k → payload.length ≤ s.cfg.txPayloadMax →
    encodeFrame s.cfg cw payload = some frame →
    exec (.issue cls cw ex chk payload) s = .next { s with
      buf := [], pos := s.pos + s.buf.length
      pClass := k, pCw := cw, pExpect := ex, pChk := chk, pPrior := decide (s.sess = .configuring)
      tmoCnt := s.cfg.timeoutTicks, failReason := .none, hs := .sent, sess := .awaitingAck
      events := [.flushInput, .tx frame], result := .ok }

/-- ISSUE refused (43_command_ack.md R171): BUSY before INVALID_ARGUMENT; a refused ISSUE changes no state and emits no
event. That a payload above `TX_PAYLOAD_MAX` is refused by ISSUE, in the way of 40_frame_codec.md R104, is the model's reading
(log entry 15). -/
def Obligations.IssueRefusalsChangeNothing : Prop :=
  ∀ (s : State) (cls : BitVec 2) (cw ex : Word16) (chk : Bool) (payload : List Byte),
    (s.hs = .sent →
      exec (.issue cls cw ex chk payload) s = .next { s with events := [], result := .busy }) ∧
    (s.hs ≠ .sent → (cls = 3 ∨ 65535 < 2 + payload.length ∨ s.cfg.txPayloadMax < payload.length) →
      exec (.issue cls cw ex chk payload) s = .next { s with events := [], result := .invalidArgument })

/-- Each of the 13 commands is ISSUE with its row's class, word, reply word and chk (30_encoding.md R85, R86, R87): where
ISSUE is accepted, the command is sent and waited for. The words are parameters of the build. The chk column is one the spec
itself marks as general knowledge (93_implementation_defined.md G4): PRESUMED, log entry 17. -/
def Obligations.CommandsIssueTheirRow : Prop :=
  ∀ (s : State) (i : Instr) (m : Command) (payload frame : List Byte),
    i.command? = some (m, payload) → s.hs ≠ .sent → payload.length ≤ s.cfg.txPayloadMax →
    encodeFrame s.cfg (s.cfg.word m) payload = some frame →
    exec i s = .next { s with
      buf := [], pos := s.pos + s.buf.length
      pClass := if m = .enterConfig then .enter else if m = .exitConfig then .exit else .other
      pCw := s.cfg.word m, pExpect := s.cfg.word m ||| s.cfg.replyFlag
      pChk := !decide (m ∈ [.readFirmware, .readSerial, .readParams, .readTrigger, .readHold])
      pPrior := decide (s.sess = .configuring)
      tmoCnt := s.cfg.timeoutTicks, failReason := .none, hs := .sent, sess := .awaitingAck
      events := [.flushInput, .tx frame], result := .ok }

/-- TICK (43_command_ack.md R178): counts while a command is pending, ends it at 0, and does nothing otherwise. -/
def Obligations.TickCountsAndTimesOut : Prop :=
  ∀ s : State,
    (s.hs ≠ .sent → exec .tick s = .next { s with events := [], result := .none }) ∧
    (s.hs = .sent → 2 ≤ s.tmoCnt →
      exec .tick s = .next { s with tmoCnt := s.tmoCnt - 1, events := [], result := .none }) ∧
    (s.hs = .sent → s.tmoCnt = 1 →
      exec .tick s = .next { s with
        tmoCnt := 0, hs := .failed, failReason := .timeout, sess := .streaming
        events := [.cmdTimeout], result := .none })

/-- A pending command times out at the `tmo_cnt`-th TICK and not before (43_command_ack.md R178). -/
def Obligations.TimeoutAtTheLastTickOnly : Prop :=
  ∀ s : State, s.hs = .sent → 1 ≤ s.tmoCnt →
    (∀ n, 1 ≤ n → n < s.tmoCnt →
      runOps (ticks n) s = some { s with tmoCnt := s.tmoCnt - n, events := [], result := .none }) ∧
    runOps (ticks s.tmoCnt) s = some { s with
      tmoCnt := 0, hs := .failed, failReason := .timeout, sess := .streaming
      events := [.cmdTimeout], result := .none }

/-- POLL (43_command_ack.md R179, 30_encoding.md R83): leaves the state and the events of DRAIN, and reports the handler; a second POLL reports the same; in a
quiescent state it changes nothing but the outputs. -/
def Obligations.PollReportsTheHandler : Prop :=
  ∀ s : State, ∃ (t : State) (st : PollStatus) (reply : Option Reply),
    exec .poll s = .next t ∧ t.result = .poll st s.pCw reply ∧
    exec .drain s = .next { t with result := .none } ∧ Quiescent t ∧ OnlyReceived s t ∧
    (t.hs = .idle → st = .idle) ∧ (t.hs = .sent → st = .pending) ∧ (t.hs = .acked → st = .acked) ∧
    (t.hs = .failed → t.failReason = .timeout → st = .timedOut) ∧
    (t.hs = .failed → t.failReason = .rejected → st = .rejected) ∧
    (t.hs = .failed → t.failReason = .transport → st = .transport) ∧
    reply = (if t.rpValid = true then some ⟨t.rpCw, t.rpPayload.take t.rpLen⟩ else none) ∧
    exec .poll t = .next { t with events := [] } ∧
    (Quiescent s → t = { s with events := [], result := t.result })

/-- CANCEL (43_command_ack.md R180). -/
def Obligations.CancelAbandonsOnlyAPendingCommand : Prop :=
  ∀ s : State,
    (s.hs = .sent → exec .cancel s = .next { s with
      hs := .idle, failReason := .none, sess := .streaming, events := [], result := .none }) ∧
    (s.hs ≠ .sent → exec .cancel s = .next { s with events := [], result := .none })

/-- XERR (43_command_ack.md R181, 60_exceptions.md R237): the buffer is emptied; a pending command fails. -/
def Obligations.TransportErrorEmptiesTheBuffer : Prop :=
  ∀ s : State,
    (s.hs = .sent → exec .xerr s = .next { s with
      buf := [], pos := s.pos + s.buf.length, hs := .failed, failReason := .transport, sess := .streaming
      events := [.cmdXerr], result := .none }) ∧
    (s.hs ≠ .sent → exec .xerr s = .next { s with
      buf := [], pos := s.pos + s.buf.length, events := [], result := .none })

/-- HANDLE_CFG on a frame of the build (43_command_ack.md R175 to R177). -/
def Obligations.HandleCfgParsesTheReply : Prop :=
  ∀ (s : State) (cw : Word16) (payload frame : List Byte), encodeFrame s.cfg cw payload = some frame →
    exec (.handleCfg frame) s = .next (replyEffect cw payload s)

/-- A terminal result stays until the next ISSUE or RESET: no other operation touches the handler, the command registers or
the reply; so a late reply is never accepted (43_command_ack.md R170, R182; 92_eei_decisions.md D27). The host sequences are
left out: they issue. -/
def Obligations.TerminalResultsAreSticky : Prop :=
  ∀ (i : Instr) (s t : State), exec i s = .next t → (s.hs = .acked ∨ s.hs = .failed) →
    isIssue i = false → i ≠ .reset → i.format ≠ .pseudo →
    t.hs = s.hs ∧ t.failReason = s.failReason ∧ t.pCw = s.pCw ∧ t.pExpect = s.pExpect ∧ t.rpCw = s.rpCw ∧
      t.rpLen = s.rpLen ∧ t.rpPayload = s.rpPayload ∧ pollStatus t = pollStatus s

/-- The transitions of `hs`, with the fail reason and the event of each (43_command_ack.md R170): from a state of the invariants,
one operation changes `hs` only as the table says. -/
def Obligations.HandlerChangesOnlyByTheTable : Prop :=
  ∀ (i : Instr) (s t : State), Inv s → exec i s = .next t → i.format ≠ .pseudo → t.hs ≠ s.hs →
    (s.hs ≠ .sent ∧ t.hs = .sent ∧ isIssue i = true ∧ t.failReason = .none ∧
      ∃ frame, t.events = [.flushInput, .tx frame]) ∨
    (s.hs = .sent ∧ t.hs = .acked ∧ t.failReason = .none ∧ ∃ p, Event.ackDone s.pExpect p ∈ t.events) ∨
    (s.hs = .sent ∧ t.hs = .failed ∧ t.failReason = .rejected ∧ ∃ p, Event.cmdRejected s.pExpect p ∈ t.events) ∨
    (s.hs = .sent ∧ t.hs = .failed ∧ t.failReason = .timeout ∧ i = .tick ∧ t.events = [.cmdTimeout]) ∨
    (s.hs = .sent ∧ t.hs = .failed ∧ t.failReason = .transport ∧ i = .xerr ∧ t.events = [.cmdXerr]) ∨
    (s.hs = .sent ∧ t.hs = .idle ∧ t.failReason = .none ∧ i = .cancel ∧ t.events = []) ∨
    (t.hs = .idle ∧ t.failReason = .none ∧ i = .reset ∧ t.events = [])

/-- Only ISSUE sends: no other operation emits `TX` or `FLUSH_INPUT` (43_command_ack.md R184). -/
def Obligations.OnlyIssueTransmits : Prop :=
  ∀ (i : Instr) (s t : State), exec i s = .next t → isIssue i = false → i.format ≠ .pseudo →
    ∀ e ∈ t.events, e.toTransport = false

/-- A late reply to an earlier attempt of the same command is accepted as the reply to the second (70_reset_and_hazards.md R283):
the hazard the rules leave, under either terminator. It is acknowledged exactly as a timely reply would be: where the status is
not checked or is `STATUS_OK`; with any other status it rejects the second command. -/
def Obligations.StaleReplyToTheSameCommandIsAccepted : Prop :=
  ∀ (s t u : State) (cls : BitVec 2) (cw ex : Word16) (chk : Bool) (p reply : List Byte) (late : Instr),
    s.cfg.Wf → s.hs ≠ .sent →
    late = (match s.cfg.cfgTerm with | .marker => .cfgFrame ex reply | .checksum => .cfgFrameCk ex reply) →
    late.wellFormed s.cfg = true →
    exec (.issue cls cw ex chk p) s = .next t → t.result = .ok →
    runOps (ticks s.cfg.timeoutTicks) t = some u →
    ∃ v w, exec (.issue cls cw ex chk p) u = .next v ∧ v.result = .ok ∧ u.hs = .failed ∧ u.failReason = .timeout ∧
      exec late v = .next w ∧
      (chk = false ∨ statusAccepted s.cfg reply → w.hs = .acked ∧ w.events = [.ackDone ex reply]) ∧
      (¬ (chk = false ∨ statusAccepted s.cfg reply) →
        w.hs = .failed ∧ w.failReason = .rejected ∧ w.events = [.cmdRejected ex reply])

/-! ### Session Controller -/

/-- The transitions of `sess` (44_session_controller.md R203): from a state of the invariants, one operation changes `sess` only
as the table says. -/
def Obligations.SessionChangesOnlyByTheTable : Prop :=
  ∀ (i : Instr) (s t : State), Inv s → exec i s = .next t → i.format ≠ .pseudo → t.sess ≠ s.sess →
    (s.sess ≠ .awaitingAck ∧ t.sess = .awaitingAck ∧ isIssue i = true ∧ t.pPrior = decide (s.sess = .configuring)) ∨
    (s.sess = .awaitingAck ∧ t.sess = .configuring ∧ t.hs = .acked ∧
      (s.pClass = .enter ∨ s.pClass = .other ∧ s.pPrior = true)) ∨
    (s.sess = .awaitingAck ∧ t.sess = .streaming ∧ t.hs = .acked ∧
      (s.pClass = .exit ∨ s.pClass = .other ∧ s.pPrior = false)) ∨
    (s.sess = .awaitingAck ∧ t.sess = .streaming ∧ t.hs = .failed ∧ (t.failReason = .rejected ∨
      t.failReason = .timeout ∧ i = .tick ∨ t.failReason = .transport ∧ i = .xerr)) ∨
    (s.sess = .awaitingAck ∧ t.sess = .streaming ∧ i = .cancel) ∨
    (t.sess = .streaming ∧ i = .reset)

/-- Mode gating (44_session_controller.md R202, R205): an operation that leaves the block outside Streaming has emitted no
telemetry, and one that starts in Streaming emits nothing about replies. The host sequences are many operations; the
micro-operation HANDLE_CFG is called outside Streaming only. -/
def Obligations.TelemetryAndRepliesExcludeEachOther : Prop :=
  ∀ (i : Instr) (s t : State), exec i s = .next t → i.format ≠ .pseudo → (∀ w, i ≠ .handleCfg w) →
    (t.sess ≠ .streaming → ∀ e ∈ t.events, e.isTelemetry = false) ∧
    (s.sess = .streaming → ∀ e ∈ t.events, e.isReply = false)

/-- ENTER_CONFIGURATION for every schedule of the other agents (44_session_controller.md R210): it succeeds in configuration
mode, ends in Streaming after its last failed attempt, or still waits. The schedule and the waiting result are the model's
choice (log entry 6). -/
def Obligations.EnterConfigurationEndsAsItReports : Prop :=
  ∀ (s : State) (payload : List Byte) (sched : Schedule), s.cfg.Wf → payload.length ≤ s.cfg.txPayloadMax →
    ∃ t r, exec (.enterConfiguration payload sched) s = .next t ∧ t.result = .sequence r ∧ t.cfg = s.cfg ∧
      t.tfam = s.tfam ∧ t.inq = s.inq ∧
      ((r = .success ∧ t.hs = .acked ∧ t.sess = .configuring ∧ t.pCw = s.cfg.words.enterConfig) ∨
       (∃ st, r = .error (.status st) ∧ t.hs = .failed ∧ t.sess = .streaming ∧
          t.pCw = s.cfg.words.enterConfig ∧ st = pollStatus t) ∨
       (r = .waiting ∧ t.hs = .sent ∧ t.sess = .awaitingAck ∧ t.pCw = s.cfg.words.enterConfig) ∨
       (r = .error .busy ∧ t.hs = .sent))

/-- EXIT_CONFIGURATION for every schedule (44_session_controller.md R211): whatever it reports, unless it still waits, the session
is Streaming; it is never refused. The schedule and the waiting result are the model's choice (log entry 6). -/
def Obligations.ExitConfigurationReturnsToStreaming : Prop :=
  ∀ (s : State) (payload : List Byte) (sched : Schedule), s.cfg.Wf → payload.length ≤ s.cfg.txPayloadMax →
    ∃ t r, exec (.exitConfiguration payload sched) s = .next t ∧ t.result = .sequence r ∧ t.cfg = s.cfg ∧
      t.tfam = s.tfam ∧ t.inq = s.inq ∧ t.pCw = s.cfg.words.exitConfig ∧
      ((r = .success ∧ t.hs = .acked ∧ t.sess = .streaming) ∨
       (∃ st, r = .error (.status st) ∧ t.hs = .failed ∧ t.sess = .streaming ∧ st = pollStatus t) ∨
       (r = .waiting ∧ t.hs = .sent ∧ t.sess = .awaitingAck))

/-- APPLY_CONFIGURATION (44_session_controller.md R212, R213): a value out of its range returns InvalidArgument with no ISSUE;
otherwise, unless the host still waits, the exit step has been executed and the session is Streaming. Success means that every
command, the exit among them, was acknowledged, in the order they are sent. ENTER_CONFIGURATION and the present groups run one
after the other until one fails (`before`), EXIT_CONFIGURATION follows on what they leave, and the first error is the one
reported. The schedule and the waiting result are the model's choice (log entry 6); so is how the ranges are represented:
threshold arrays of exactly `MAX_GATES` entries, frequencies in tenths of a hertz, the response speed unchecked (log entry
18). -/
def Obligations.ApplyConfigurationChecksThenAlwaysExits : Prop :=
  ∀ (s : State) (ps : ParamSet) (p : Payloads) (sched : Schedule),
    (¬ CatalogOk s.cfg ps →
      exec (.applyConfiguration ps p sched) s =
        .next { s with events := [], result := .sequence (.error .invalidArgument) }) ∧
    (CatalogOk s.cfg ps → s.cfg.Wf → p.exit.length ≤ s.cfg.txPayloadMax →
      ∃ t r, exec (.applyConfiguration ps p sched) s = .next t ∧ t.result = .sequence r ∧ t.cfg = s.cfg ∧
        t.tfam = s.tfam ∧ t.inq = s.inq ∧
        (r = .waiting ∧ t.hs = .sent ∨
         r ≠ .waiting ∧ t.sess = .streaming ∧ t.pCw = s.cfg.words.exitConfig ∧
           (t.hs = .failed ∨ t.hs = .acked) ∧ (r = .success → t.hs = .acked)) ∧
        (r = .success →
          ((commandsToApply ps p ++ [(Command.exitConfig, p.exit)]).map fun x => s.cfg.word x.1 ||| s.cfg.replyFlag).Sublist
            (t.events.filterMap ackWord)) ∧
        ∃ before left u,
          CommandsEnd (commandsToApply ps p) sched { s with events := [], result := .none } before left u ∧
          (∀ w e, exec (.enterConfiguration p.enter sched) s = .next w → w.result = .sequence e → e ≠ .success →
            before = e) ∧
          (before = .waiting → t = { u with result := .sequence .waiting }) ∧
          (before ≠ .waiting → ∃ v ended, exec (.exitConfiguration p.exit left) u = .next v ∧ v.result = .sequence ended ∧
            t = { v with events := u.events ++ v.events, result := .sequence r } ∧
            (ended = .waiting → r = .waiting) ∧ (∀ e, ended ≠ .waiting → before = .error e → r = .error e) ∧
            (before = .success → r = ended)))

/-- ENTER_CONFIGURATION where the reply to the first attempt arrives: it succeeds, and the session is Configuring
(44_session_controller.md R210, R203). What the other agents do is the schedule (log entry 6). -/
def Obligations.EnterConfigurationSucceedsOnItsReply : Prop :=
  ∀ (s : State) (payload tx reply rx : List Byte), s.cfg.Wf → s.hs ≠ .sent →
    Exchange s.cfg .enterConfig payload tx reply rx →
    exec (.enterConfiguration payload [[], rx.map .rx]) s = .next { s with
      buf := [], pos := s.pos + s.buf.length + rx.length
      sess := .configuring, hs := .acked, failReason := .none, tmoCnt := s.cfg.timeoutTicks
      pClass := .enter, pCw := s.cfg.words.enterConfig, pExpect := s.cfg.words.enterConfig ||| s.cfg.replyFlag
      pChk := true, pPrior := decide (s.sess = .configuring)
      rpCw := s.cfg.words.enterConfig ||| s.cfg.replyFlag, rpLen := reply.length, rpPayload := reply
      events := [.flushInput, .tx tx, .ackDone (s.cfg.words.enterConfig ||| s.cfg.replyFlag) reply]
      result := .sequence .success }

/-- ENTER_CONFIGURATION where no reply ever arrives: it sends the command `N_ATTEMPTS` times, each time until the timeout, and
returns the last status in Streaming (44_session_controller.md R210, 43_command_ack.md R178). The schedule is the model's choice
(log entry 6). -/
def Obligations.EnterConfigurationGivesUpAfterTheLastAttempt : Prop :=
  ∀ (s : State) (payload tx : List Byte), s.cfg.Wf → s.hs ≠ .sent → payload.length ≤ s.cfg.txPayloadMax →
    encodeFrame s.cfg s.cfg.words.enterConfig payload = some tx →
    exec (.enterConfiguration payload
        (List.replicate s.cfg.nAttempts [[], List.replicate s.cfg.timeoutTicks EnvOp.tick]).flatten) s = .next { s with
      buf := [], pos := s.pos + s.buf.length
      sess := .streaming, hs := .failed, failReason := .timeout, tmoCnt := 0
      pClass := .enter, pCw := s.cfg.words.enterConfig, pExpect := s.cfg.words.enterConfig ||| s.cfg.replyFlag
      pChk := true, pPrior := decide (s.cfg.nAttempts = 1 ∧ s.sess = .configuring)
      events := (List.replicate s.cfg.nAttempts [.flushInput, .tx tx, .cmdTimeout]).flatten
      result := .sequence (.error (.status .timedOut)) }

/-- EXIT_CONFIGURATION where the reply to the first attempt arrives, a command pending or not (44_session_controller.md R211,
R203). The schedule is the model's choice (log entry 6). -/
def Obligations.ExitConfigurationSucceedsOnItsReply : Prop :=
  ∀ (s : State) (payload tx reply rx : List Byte), s.cfg.Wf → Exchange s.cfg .exitConfig payload tx reply rx →
    exec (.exitConfiguration payload [[], [], rx.map .rx]) s = .next { s with
      buf := [], pos := s.pos + s.buf.length + rx.length
      sess := .streaming, hs := .acked, failReason := .none, tmoCnt := s.cfg.timeoutTicks
      pClass := .exit, pCw := s.cfg.words.exitConfig, pExpect := s.cfg.words.exitConfig ||| s.cfg.replyFlag
      pChk := true, pPrior := decide (s.hs ≠ .sent ∧ s.sess = .configuring)
      rpCw := s.cfg.words.exitConfig ||| s.cfg.replyFlag, rpLen := reply.length, rpPayload := reply
      events := [.flushInput, .tx tx, .ackDone (s.cfg.words.exitConfig ||| s.cfg.replyFlag) reply]
      result := .sequence .success }

/-- APPLY_CONFIGURATION where every command is acknowledged: enter, the groups that are present in their order, exit; success in
Streaming (44_session_controller.md R212). The schedule is the model's choice (log entry 6), and so is how the ranges are
represented (log entry 18). -/
def Obligations.ApplyConfigurationWritesEveryGroup : Prop :=
  ∀ (s : State) (ps : ParamSet) (p : Payloads) (tx reply rx : Command → List Byte), s.cfg.Wf → s.hs ≠ .sent →
    CatalogOk s.cfg ps →
    (∀ x ∈ commandsToApply ps p ++ [(Command.exitConfig, p.exit)], Exchange s.cfg x.1 x.2 (tx x.1) (reply x.1) (rx x.1)) →
    exec (.applyConfiguration ps p
        (((commandsToApply ps p).flatMap fun (x : Command × List Byte) => [[], (rx x.1).map .rx]) ++ [[], [], (rx .exitConfig).map .rx])) s =
      .next { s with
        buf := []
        pos := s.pos + s.buf.length +
          ((commandsToApply ps p ++ [(Command.exitConfig, p.exit)]).map fun (x : Command × List Byte) => (rx x.1).length).sum
        sess := .streaming, hs := .acked, failReason := .none, tmoCnt := s.cfg.timeoutTicks
        pClass := .exit, pCw := s.cfg.words.exitConfig, pExpect := s.cfg.words.exitConfig ||| s.cfg.replyFlag
        pChk := true, pPrior := true
        rpCw := s.cfg.words.exitConfig ||| s.cfg.replyFlag
        rpLen := (reply .exitConfig).length, rpPayload := reply .exitConfig
        events := (commandsToApply ps p ++ [(Command.exitConfig, p.exit)]).flatMap fun (x : Command × List Byte) =>
          [.flushInput, .tx (tx x.1), .ackDone (s.cfg.word x.1 ||| s.cfg.replyFlag) (reply x.1)]
        result := .sequence .success }

/-! ### The whole machine -/

/-- The invariants of 10_state.md R31 hold at reset, in every build that satisfies 00_scope.md R7. -/
def Obligations.ResetSatisfiesTheInvariants : Prop := ∀ c : Config, c.Wf → Inv (State.resetWith c)

/-- Every step keeps the invariants of 10_state.md R31. -/
def Obligations.StepKeepsTheInvariants : Prop := ∀ s t : State, Inv s → step s = .next t → Inv t

/-- The invariants are kept by every instruction but the two micro-operations that no rule lets an agent invoke on its own and
that can leave the buffer full or hand the parser any window: FEED and HANDLE_CFG. The host sequences are included. -/
def Obligations.InstructionsKeepTheInvariants : Prop :=
  ∀ (i : Instr) (s t : State), Inv s → exec i s = .next t → (∀ b, i ≠ .feed b) → (∀ w, i ≠ .handleCfg w) → Inv t

/-- Every well-formed instruction completes in every state. For the operations that is 00_scope.md R10 and R13: each is total,
none blocks, waits or faults. For the rest it is the model's: a frame row is a sequence of RX (log entry 4), a micro-operation has
a meaning of its own (log entry 7), and a host sequence always answers, with the result waiting where its schedule is used up while
a command is pending (log entry 6; by 44_session_controller.md R209 the host would go on polling, and 70_reset_and_hazards.md R285
leaves it to the time base that this ends). That the parameters and the queue stay is the model's too (log entries 1, 2 and
26). -/
def Obligations.EveryInstructionCompletes : Prop :=
  ∀ (i : Instr) (s : State), i.wellFormed s.cfg = true →
    ∃ t, exec i s = .next t ∧ t.cfg = s.cfg ∧ t.inq = s.inq

/-- No step ever faults, in any state (20_memory.md R50: "A read outside the bound never happens"; 42_stream_synchronizer.md
R152). -/
def Obligations.StepNeverFaults : Prop := ∀ (s : State) (f : Fault), step s ≠ .fault f

/-- A window shorter than its decoder reads stops by name, where the spec presents none (20_memory.md R50: "a model should make
it a fault, never a value"; 41_telemetry_decoder.md R121 "a shorter window is never presented"; log entry 24). -/
def Obligations.ShortWindowsFault : Prop :=
  ∀ (s : State) (w : List Byte),
    (w.length < 5 → exec (.decodeMin w) s = .fault .memRead) ∧
    (w.length < 17 + s.cfg.maxGates → exec (.decodeStd w) s = .fault .memRead) ∧
    (w.length < 8 → exec (.handleCfg w) s = .fault .memRead) ∧
    (8 ≤ w.length → w.length < 6 + ((w.getD 4 0).toNat + 256 * (w.getD 5 0).toNat) →
      exec (.handleCfg w) s = .fault .memRead)

/-- A step performs the request at the head of the queue and takes its bytes off; with no request it changes nothing but the
outputs; bytes that are no request are refused by name. (The queue is the model's own, log entries 2 and 22.) -/
def Obligations.StepRunsTheNextRequest : Prop :=
  ∀ s : State,
    (∀ i rest, decode s.cfg s.inq = .ok (i, rest) → step s = exec i { s with inq := rest }) ∧
    (s.inq = [] → step s = .next { s with events := [], result := .none }) ∧
    (s.inq ≠ [] → ∀ e, decode s.cfg s.inq = .error e → step s = .refused (.noRequest e))

/-- Requests presented together are performed one after the other in the order of 60_exceptions.md R245: RESET, XERR, TICK, RX,
CANCEL, ISSUE, SET_TFAM, POLL, and the run of the machine is the run of those operations, frames and commands among them. The
queue is the model's own, and so are the place of a request that R245 does not list, behind the others, and that requests of one
place keep their order (log entries 2 and 23). -/
def Obligations.SimultaneousRequestsRunInOrder : Prop :=
  (∀ (s t : State) (is : List Instr), s.cfg.Wf → s.inq = [] →
    (∀ i ∈ is, i.wellFormed s.cfg = true ∧ i.format ≠ .micro ∧ i.format ≠ .pseudo) →
    runOps (inFixedOrder is) s = some t → Sys2Proof.core.run is.length (s.present is) = .next t) ∧
  (∀ is : List Instr, arbitrate is = inFixedOrder is ∧ (arbitrate is).Perm is ∧
    (arbitrate is).Pairwise fun i j => priority i ≤ priority j) ∧
  ∀ (b : Byte) (cls : BitVec 2) (cw ex : Word16) (chk : Bool) (payload : List Byte) (m : Tfam),
    priority .reset < priority .xerr ∧ priority .xerr < priority .tick ∧ priority .tick < priority (.rx b) ∧
    priority (.rx b) < priority .cancel ∧ priority .cancel < priority (.issue cls cw ex chk payload) ∧
    priority (.issue cls cw ex chk payload) < priority (.setTfam m) ∧ priority (.setTfam m) < priority .poll

/-- Decode and encode agree: the bytes of a well-formed instruction decode to it, whatever follows them; a command's words decode
to the ISSUE it is a shorthand for (30_encoding.md R85, R88). The layout of the operands is the model's (log entry 3). -/
def Obligations.DecodeInvertsEncode : Prop :=
  ∀ (c : Config) (i : Instr) (bytes rest : List Byte), c.Wf → i.wellFormed c = true → encode c i = some bytes →
    decode c (bytes ++ rest) = .ok (i.canonical c, rest)

/-- The other direction: bytes that decode are exactly the bytes of a well-formed instruction, an operation or a frame; no bytes
decode to a micro-operation or to a host sequence (00_scope.md R10, 30_encoding.md R88). -/
def Obligations.EncodeInvertsDecode : Prop :=
  ∀ (c : Config) (i : Instr) (bytes rest : List Byte), c.Wf → decode c bytes = .ok (i, rest) →
    i.wellFormed c = true ∧ (i.format = .op ∨ i.format = .frame) ∧
      ∃ head, encode c i = some head ∧ bytes = head ++ rest

/-- A few requests written out byte by byte: the codes of 30_encoding.md R81 and the minimal frame of R71. The operand layout is
the model's (log entry 3). -/
def Obligations.SomeWordsDecode : Prop :=
  decode Config.default [0x01, 0x6E] = .ok (.rx 0x6E, []) ∧
  decode Config.default [0x07, 0x01] = .ok (.setTfam .std, []) ∧
  decode Config.default [0x0F] = .ok (.reset, []) ∧
  decode Config.default [0x09] = .ok (.reservedOp 9, []) ∧
  decode Config.default [0x04, 0x01, 0xFF, 0x00, 0xFF, 0x01, 0x01, 0x02, 0x00, 0x00, 0x00, 0x01, 0x00] =
    .ok (.issue 1 0x00FF 0x01FF true [0x01, 0x00], []) ∧
  decode Config.default [0x6E, 0x02, 0x64, 0x00, 0x62] = .ok (.tlmMin 2 100, [])

/-- The ghost `pos` is read by no rule (10_state.md R24): started from another `pos`, an operation does the same, and moves `pos` by
the same amount. -/
def Obligations.PositionIsNeverRead : Prop :=
  ∀ (i : Instr) (s t : State) (k : Nat), exec i s = .next t → i ≠ .reset →
    exec i { s with pos := s.pos + k } = .next { t with pos := t.pos + k }

/-- The reply registers are read by no rule while they are not valid (10_state.md R26, R32): with other contents an operation answers
with the same events and result, and a state that differs at most in them. -/
def Obligations.InvalidReplyRegistersAreNeverRead : Prop :=
  ∀ (i : Instr) (s s' t : State), SameButReply s s' → s.rpValid = false → exec i s = .next t →
    ∃ t', exec i s' = .next t' ∧ SameButReply t t' ∧ (t.rpValid = true → t' = t)
end

