-- ==== Sys2Proof/Laws/State.lean ====
section
/-! SUPPORT. One lemma per field per update of the state, so that no proof unfolds a record update. -/

namespace Sys2Proof.Machine

/-! ### opStart -/

@[simp] theorem State.opStart_cfg (s : State) : s.opStart.cfg = s.cfg := rfl
@[simp] theorem State.opStart_buf (s : State) : s.opStart.buf = s.buf := rfl
@[simp] theorem State.opStart_sess (s : State) : s.opStart.sess = s.sess := rfl
@[simp] theorem State.opStart_hs (s : State) : s.opStart.hs = s.hs := rfl
@[simp] theorem State.opStart_failReason (s : State) : s.opStart.failReason = s.failReason := rfl
@[simp] theorem State.opStart_tmoCnt (s : State) : s.opStart.tmoCnt = s.tmoCnt := rfl
@[simp] theorem State.opStart_tfam (s : State) : s.opStart.tfam = s.tfam := rfl
@[simp] theorem State.opStart_pClass (s : State) : s.opStart.pClass = s.pClass := rfl
@[simp] theorem State.opStart_pCw (s : State) : s.opStart.pCw = s.pCw := rfl
@[simp] theorem State.opStart_pExpect (s : State) : s.opStart.pExpect = s.pExpect := rfl
@[simp] theorem State.opStart_pChk (s : State) : s.opStart.pChk = s.pChk := rfl
@[simp] theorem State.opStart_pPrior (s : State) : s.opStart.pPrior = s.pPrior := rfl
@[simp] theorem State.opStart_rpCw (s : State) : s.opStart.rpCw = s.rpCw := rfl
@[simp] theorem State.opStart_rpLen (s : State) : s.opStart.rpLen = s.rpLen := rfl
@[simp] theorem State.opStart_rpPayload (s : State) : s.opStart.rpPayload = s.rpPayload := rfl
@[simp] theorem State.opStart_pos (s : State) : s.opStart.pos = s.pos := rfl
@[simp] theorem State.opStart_events (s : State) : s.opStart.events = [] := rfl
@[simp] theorem State.opStart_result (s : State) : s.opStart.result = .none := rfl
@[simp] theorem State.opStart_inq (s : State) : s.opStart.inq = s.inq := rfl

/-! ### emit -/

@[simp] theorem State.emit_cfg (s : State) (e : Event) : (s.emit e).cfg = s.cfg := rfl
@[simp] theorem State.emit_buf (s : State) (e : Event) : (s.emit e).buf = s.buf := rfl
@[simp] theorem State.emit_sess (s : State) (e : Event) : (s.emit e).sess = s.sess := rfl
@[simp] theorem State.emit_hs (s : State) (e : Event) : (s.emit e).hs = s.hs := rfl
@[simp] theorem State.emit_failReason (s : State) (e : Event) : (s.emit e).failReason = s.failReason := rfl
@[simp] theorem State.emit_tmoCnt (s : State) (e : Event) : (s.emit e).tmoCnt = s.tmoCnt := rfl
@[simp] theorem State.emit_tfam (s : State) (e : Event) : (s.emit e).tfam = s.tfam := rfl
@[simp] theorem State.emit_pClass (s : State) (e : Event) : (s.emit e).pClass = s.pClass := rfl
@[simp] theorem State.emit_pCw (s : State) (e : Event) : (s.emit e).pCw = s.pCw := rfl
@[simp] theorem State.emit_pExpect (s : State) (e : Event) : (s.emit e).pExpect = s.pExpect := rfl
@[simp] theorem State.emit_pChk (s : State) (e : Event) : (s.emit e).pChk = s.pChk := rfl
@[simp] theorem State.emit_pPrior (s : State) (e : Event) : (s.emit e).pPrior = s.pPrior := rfl
@[simp] theorem State.emit_rpCw (s : State) (e : Event) : (s.emit e).rpCw = s.rpCw := rfl
@[simp] theorem State.emit_rpLen (s : State) (e : Event) : (s.emit e).rpLen = s.rpLen := rfl
@[simp] theorem State.emit_rpPayload (s : State) (e : Event) : (s.emit e).rpPayload = s.rpPayload := rfl
@[simp] theorem State.emit_pos (s : State) (e : Event) : (s.emit e).pos = s.pos := rfl
@[simp] theorem State.emit_events (s : State) (e : Event) : (s.emit e).events = s.events ++ [e] := rfl
@[simp] theorem State.emit_result (s : State) (e : Event) : (s.emit e).result = s.result := rfl
@[simp] theorem State.emit_inq (s : State) (e : Event) : (s.emit e).inq = s.inq := rfl

/-! ### setResult -/

@[simp] theorem State.setResult_cfg (s : State) (r : OpResult) : (s.setResult r).cfg = s.cfg := rfl
@[simp] theorem State.setResult_buf (s : State) (r : OpResult) : (s.setResult r).buf = s.buf := rfl
@[simp] theorem State.setResult_sess (s : State) (r : OpResult) : (s.setResult r).sess = s.sess := rfl
@[simp] theorem State.setResult_hs (s : State) (r : OpResult) : (s.setResult r).hs = s.hs := rfl
@[simp] theorem State.setResult_failReason (s : State) (r : OpResult) :
    (s.setResult r).failReason = s.failReason := rfl
@[simp] theorem State.setResult_tmoCnt (s : State) (r : OpResult) : (s.setResult r).tmoCnt = s.tmoCnt := rfl
@[simp] theorem State.setResult_tfam (s : State) (r : OpResult) : (s.setResult r).tfam = s.tfam := rfl
@[simp] theorem State.setResult_pClass (s : State) (r : OpResult) : (s.setResult r).pClass = s.pClass := rfl
@[simp] theorem State.setResult_pCw (s : State) (r : OpResult) : (s.setResult r).pCw = s.pCw := rfl
@[simp] theorem State.setResult_pExpect (s : State) (r : OpResult) : (s.setResult r).pExpect = s.pExpect := rfl
@[simp] theorem State.setResult_pChk (s : State) (r : OpResult) : (s.setResult r).pChk = s.pChk := rfl
@[simp] theorem State.setResult_pPrior (s : State) (r : OpResult) : (s.setResult r).pPrior = s.pPrior := rfl
@[simp] theorem State.setResult_rpCw (s : State) (r : OpResult) : (s.setResult r).rpCw = s.rpCw := rfl
@[simp] theorem State.setResult_rpLen (s : State) (r : OpResult) : (s.setResult r).rpLen = s.rpLen := rfl
@[simp] theorem State.setResult_rpPayload (s : State) (r : OpResult) : (s.setResult r).rpPayload = s.rpPayload := rfl
@[simp] theorem State.setResult_pos (s : State) (r : OpResult) : (s.setResult r).pos = s.pos := rfl
@[simp] theorem State.setResult_events (s : State) (r : OpResult) : (s.setResult r).events = s.events := rfl
@[simp] theorem State.setResult_result (s : State) (r : OpResult) : (s.setResult r).result = r := rfl
@[simp] theorem State.setResult_inq (s : State) (r : OpResult) : (s.setResult r).inq = s.inq := rfl

/-! ### appendByte -/

@[simp] theorem State.appendByte_cfg (s : State) (b : Byte) : (s.appendByte b).cfg = s.cfg := rfl
@[simp] theorem State.appendByte_buf (s : State) (b : Byte) : (s.appendByte b).buf = s.buf ++ [b] := rfl
@[simp] theorem State.appendByte_sess (s : State) (b : Byte) : (s.appendByte b).sess = s.sess := rfl
@[simp] theorem State.appendByte_hs (s : State) (b : Byte) : (s.appendByte b).hs = s.hs := rfl
@[simp] theorem State.appendByte_failReason (s : State) (b : Byte) : (s.appendByte b).failReason = s.failReason := rfl
@[simp] theorem State.appendByte_tmoCnt (s : State) (b : Byte) : (s.appendByte b).tmoCnt = s.tmoCnt := rfl
@[simp] theorem State.appendByte_tfam (s : State) (b : Byte) : (s.appendByte b).tfam = s.tfam := rfl
@[simp] theorem State.appendByte_pClass (s : State) (b : Byte) : (s.appendByte b).pClass = s.pClass := rfl
@[simp] theorem State.appendByte_pCw (s : State) (b : Byte) : (s.appendByte b).pCw = s.pCw := rfl
@[simp] theorem State.appendByte_pExpect (s : State) (b : Byte) : (s.appendByte b).pExpect = s.pExpect := rfl
@[simp] theorem State.appendByte_pChk (s : State) (b : Byte) : (s.appendByte b).pChk = s.pChk := rfl
@[simp] theorem State.appendByte_pPrior (s : State) (b : Byte) : (s.appendByte b).pPrior = s.pPrior := rfl
@[simp] theorem State.appendByte_rpCw (s : State) (b : Byte) : (s.appendByte b).rpCw = s.rpCw := rfl
@[simp] theorem State.appendByte_rpLen (s : State) (b : Byte) : (s.appendByte b).rpLen = s.rpLen := rfl
@[simp] theorem State.appendByte_rpPayload (s : State) (b : Byte) : (s.appendByte b).rpPayload = s.rpPayload := rfl
@[simp] theorem State.appendByte_pos (s : State) (b : Byte) : (s.appendByte b).pos = s.pos := rfl
@[simp] theorem State.appendByte_events (s : State) (b : Byte) : (s.appendByte b).events = s.events := rfl
@[simp] theorem State.appendByte_result (s : State) (b : Byte) : (s.appendByte b).result = s.result := rfl
@[simp] theorem State.appendByte_inq (s : State) (b : Byte) : (s.appendByte b).inq = s.inq := rfl

/-! ### removePrefix -/

@[simp] theorem State.removePrefix_cfg (s : State) (n : Nat) : (s.removePrefix n).cfg = s.cfg := rfl
@[simp] theorem State.removePrefix_buf (s : State) (n : Nat) : (s.removePrefix n).buf = s.buf.drop n := rfl
@[simp] theorem State.removePrefix_sess (s : State) (n : Nat) : (s.removePrefix n).sess = s.sess := rfl
@[simp] theorem State.removePrefix_hs (s : State) (n : Nat) : (s.removePrefix n).hs = s.hs := rfl
@[simp] theorem State.removePrefix_failReason (s : State) (n : Nat) :
    (s.removePrefix n).failReason = s.failReason := rfl
@[simp] theorem State.removePrefix_tmoCnt (s : State) (n : Nat) : (s.removePrefix n).tmoCnt = s.tmoCnt := rfl
@[simp] theorem State.removePrefix_tfam (s : State) (n : Nat) : (s.removePrefix n).tfam = s.tfam := rfl
@[simp] theorem State.removePrefix_pClass (s : State) (n : Nat) : (s.removePrefix n).pClass = s.pClass := rfl
@[simp] theorem State.removePrefix_pCw (s : State) (n : Nat) : (s.removePrefix n).pCw = s.pCw := rfl
@[simp] theorem State.removePrefix_pExpect (s : State) (n : Nat) : (s.removePrefix n).pExpect = s.pExpect := rfl
@[simp] theorem State.removePrefix_pChk (s : State) (n : Nat) : (s.removePrefix n).pChk = s.pChk := rfl
@[simp] theorem State.removePrefix_pPrior (s : State) (n : Nat) : (s.removePrefix n).pPrior = s.pPrior := rfl
@[simp] theorem State.removePrefix_rpCw (s : State) (n : Nat) : (s.removePrefix n).rpCw = s.rpCw := rfl
@[simp] theorem State.removePrefix_rpLen (s : State) (n : Nat) : (s.removePrefix n).rpLen = s.rpLen := rfl
@[simp] theorem State.removePrefix_rpPayload (s : State) (n : Nat) : (s.removePrefix n).rpPayload = s.rpPayload := rfl
@[simp] theorem State.removePrefix_pos (s : State) (n : Nat) :
    (s.removePrefix n).pos = s.pos + min n s.buf.length := rfl
@[simp] theorem State.removePrefix_events (s : State) (n : Nat) : (s.removePrefix n).events = s.events := rfl
@[simp] theorem State.removePrefix_result (s : State) (n : Nat) : (s.removePrefix n).result = s.result := rfl
@[simp] theorem State.removePrefix_inq (s : State) (n : Nat) : (s.removePrefix n).inq = s.inq := rfl

/-! ### clearBuf -/

@[simp] theorem State.clearBuf_cfg (s : State) : s.clearBuf.cfg = s.cfg := rfl
@[simp] theorem State.clearBuf_buf (s : State) : s.clearBuf.buf = [] := rfl
@[simp] theorem State.clearBuf_sess (s : State) : s.clearBuf.sess = s.sess := rfl
@[simp] theorem State.clearBuf_hs (s : State) : s.clearBuf.hs = s.hs := rfl
@[simp] theorem State.clearBuf_failReason (s : State) : s.clearBuf.failReason = s.failReason := rfl
@[simp] theorem State.clearBuf_tmoCnt (s : State) : s.clearBuf.tmoCnt = s.tmoCnt := rfl
@[simp] theorem State.clearBuf_tfam (s : State) : s.clearBuf.tfam = s.tfam := rfl
@[simp] theorem State.clearBuf_pClass (s : State) : s.clearBuf.pClass = s.pClass := rfl
@[simp] theorem State.clearBuf_pCw (s : State) : s.clearBuf.pCw = s.pCw := rfl
@[simp] theorem State.clearBuf_pExpect (s : State) : s.clearBuf.pExpect = s.pExpect := rfl
@[simp] theorem State.clearBuf_pChk (s : State) : s.clearBuf.pChk = s.pChk := rfl
@[simp] theorem State.clearBuf_pPrior (s : State) : s.clearBuf.pPrior = s.pPrior := rfl
@[simp] theorem State.clearBuf_rpCw (s : State) : s.clearBuf.rpCw = s.rpCw := rfl
@[simp] theorem State.clearBuf_rpLen (s : State) : s.clearBuf.rpLen = s.rpLen := rfl
@[simp] theorem State.clearBuf_rpPayload (s : State) : s.clearBuf.rpPayload = s.rpPayload := rfl
@[simp] theorem State.clearBuf_pos (s : State) : s.clearBuf.pos = s.pos + s.buf.length := rfl
@[simp] theorem State.clearBuf_events (s : State) : s.clearBuf.events = s.events := rfl
@[simp] theorem State.clearBuf_result (s : State) : s.clearBuf.result = s.result := rfl
@[simp] theorem State.clearBuf_inq (s : State) : s.clearBuf.inq = s.inq := rfl

/-! ### failCommand -/

@[simp] theorem State.failCommand_cfg (s : State) (r : FailReason) : (s.failCommand r).cfg = s.cfg := rfl
@[simp] theorem State.failCommand_buf (s : State) (r : FailReason) : (s.failCommand r).buf = s.buf := rfl
@[simp] theorem State.failCommand_sess (s : State) (r : FailReason) : (s.failCommand r).sess = .streaming := rfl
@[simp] theorem State.failCommand_hs (s : State) (r : FailReason) : (s.failCommand r).hs = .failed := rfl
@[simp] theorem State.failCommand_failReason (s : State) (r : FailReason) : (s.failCommand r).failReason = r := rfl
@[simp] theorem State.failCommand_tmoCnt (s : State) (r : FailReason) : (s.failCommand r).tmoCnt = s.tmoCnt := rfl
@[simp] theorem State.failCommand_tfam (s : State) (r : FailReason) : (s.failCommand r).tfam = s.tfam := rfl
@[simp] theorem State.failCommand_pClass (s : State) (r : FailReason) : (s.failCommand r).pClass = s.pClass := rfl
@[simp] theorem State.failCommand_pCw (s : State) (r : FailReason) : (s.failCommand r).pCw = s.pCw := rfl
@[simp] theorem State.failCommand_pExpect (s : State) (r : FailReason) : (s.failCommand r).pExpect = s.pExpect := rfl
@[simp] theorem State.failCommand_pChk (s : State) (r : FailReason) : (s.failCommand r).pChk = s.pChk := rfl
@[simp] theorem State.failCommand_pPrior (s : State) (r : FailReason) : (s.failCommand r).pPrior = s.pPrior := rfl
@[simp] theorem State.failCommand_rpCw (s : State) (r : FailReason) : (s.failCommand r).rpCw = s.rpCw := rfl
@[simp] theorem State.failCommand_rpLen (s : State) (r : FailReason) : (s.failCommand r).rpLen = s.rpLen := rfl
@[simp] theorem State.failCommand_rpPayload (s : State) (r : FailReason) :
    (s.failCommand r).rpPayload = s.rpPayload := rfl
@[simp] theorem State.failCommand_pos (s : State) (r : FailReason) : (s.failCommand r).pos = s.pos := rfl
@[simp] theorem State.failCommand_events (s : State) (r : FailReason) : (s.failCommand r).events = s.events := rfl
@[simp] theorem State.failCommand_result (s : State) (r : FailReason) : (s.failCommand r).result = s.result := rfl
@[simp] theorem State.failCommand_inq (s : State) (r : FailReason) : (s.failCommand r).inq = s.inq := rfl

/-! ### storeReply -/

@[simp] theorem State.storeReply_cfg (s : State) (cw : Word16) (p : List Byte) :
    (s.storeReply cw p).cfg = s.cfg := rfl
@[simp] theorem State.storeReply_buf (s : State) (cw : Word16) (p : List Byte) :
    (s.storeReply cw p).buf = s.buf := rfl
@[simp] theorem State.storeReply_sess (s : State) (cw : Word16) (p : List Byte) :
    (s.storeReply cw p).sess = s.sess := rfl
@[simp] theorem State.storeReply_hs (s : State) (cw : Word16) (p : List Byte) : (s.storeReply cw p).hs = s.hs := rfl
@[simp] theorem State.storeReply_failReason (s : State) (cw : Word16) (p : List Byte) :
    (s.storeReply cw p).failReason = s.failReason := rfl
@[simp] theorem State.storeReply_tmoCnt (s : State) (cw : Word16) (p : List Byte) :
    (s.storeReply cw p).tmoCnt = s.tmoCnt := rfl
@[simp] theorem State.storeReply_tfam (s : State) (cw : Word16) (p : List Byte) :
    (s.storeReply cw p).tfam = s.tfam := rfl
@[simp] theorem State.storeReply_pClass (s : State) (cw : Word16) (p : List Byte) :
    (s.storeReply cw p).pClass = s.pClass := rfl
@[simp] theorem State.storeReply_pCw (s : State) (cw : Word16) (p : List Byte) :
    (s.storeReply cw p).pCw = s.pCw := rfl
@[simp] theorem State.storeReply_pExpect (s : State) (cw : Word16) (p : List Byte) :
    (s.storeReply cw p).pExpect = s.pExpect := rfl
@[simp] theorem State.storeReply_pChk (s : State) (cw : Word16) (p : List Byte) :
    (s.storeReply cw p).pChk = s.pChk := rfl
@[simp] theorem State.storeReply_pPrior (s : State) (cw : Word16) (p : List Byte) :
    (s.storeReply cw p).pPrior = s.pPrior := rfl
@[simp] theorem State.storeReply_rpCw (s : State) (cw : Word16) (p : List Byte) : (s.storeReply cw p).rpCw = cw := rfl
@[simp] theorem State.storeReply_rpLen (s : State) (cw : Word16) (p : List Byte) :
    (s.storeReply cw p).rpLen = p.length := rfl
@[simp] theorem State.storeReply_rpPayload (s : State) (cw : Word16) (p : List Byte) :
    (s.storeReply cw p).rpPayload = p := rfl
@[simp] theorem State.storeReply_pos (s : State) (cw : Word16) (p : List Byte) :
    (s.storeReply cw p).pos = s.pos := rfl
@[simp] theorem State.storeReply_events (s : State) (cw : Word16) (p : List Byte) :
    (s.storeReply cw p).events = s.events := rfl
@[simp] theorem State.storeReply_result (s : State) (cw : Word16) (p : List Byte) :
    (s.storeReply cw p).result = s.result := rfl
@[simp] theorem State.storeReply_inq (s : State) (cw : Word16) (p : List Byte) :
    (s.storeReply cw p).inq = s.inq := rfl

/-! ### ackCommand -/

@[simp] theorem State.ackCommand_cfg (s : State) : s.ackCommand.cfg = s.cfg := rfl
@[simp] theorem State.ackCommand_buf (s : State) : s.ackCommand.buf = s.buf := rfl
@[simp] theorem State.ackCommand_sess (s : State) : s.ackCommand.sess = sessAfterAck s.pClass s.pPrior := rfl
@[simp] theorem State.ackCommand_hs (s : State) : s.ackCommand.hs = .acked := rfl
@[simp] theorem State.ackCommand_failReason (s : State) : s.ackCommand.failReason = s.failReason := rfl
@[simp] theorem State.ackCommand_tmoCnt (s : State) : s.ackCommand.tmoCnt = s.tmoCnt := rfl
@[simp] theorem State.ackCommand_tfam (s : State) : s.ackCommand.tfam = s.tfam := rfl
@[simp] theorem State.ackCommand_pClass (s : State) : s.ackCommand.pClass = s.pClass := rfl
@[simp] theorem State.ackCommand_pCw (s : State) : s.ackCommand.pCw = s.pCw := rfl
@[simp] theorem State.ackCommand_pExpect (s : State) : s.ackCommand.pExpect = s.pExpect := rfl
@[simp] theorem State.ackCommand_pChk (s : State) : s.ackCommand.pChk = s.pChk := rfl
@[simp] theorem State.ackCommand_pPrior (s : State) : s.ackCommand.pPrior = s.pPrior := rfl
@[simp] theorem State.ackCommand_rpCw (s : State) : s.ackCommand.rpCw = s.rpCw := rfl
@[simp] theorem State.ackCommand_rpLen (s : State) : s.ackCommand.rpLen = s.rpLen := rfl
@[simp] theorem State.ackCommand_rpPayload (s : State) : s.ackCommand.rpPayload = s.rpPayload := rfl
@[simp] theorem State.ackCommand_pos (s : State) : s.ackCommand.pos = s.pos := rfl
@[simp] theorem State.ackCommand_events (s : State) : s.ackCommand.events = s.events := rfl
@[simp] theorem State.ackCommand_result (s : State) : s.ackCommand.result = s.result := rfl
@[simp] theorem State.ackCommand_inq (s : State) : s.ackCommand.inq = s.inq := rfl

/-! ### recordCommand -/

@[simp] theorem State.recordCommand_cfg (s : State) (k : CmdClass) (cw ex : Word16) (chk : Bool) :
    (s.recordCommand k cw ex chk).cfg = s.cfg := rfl
@[simp] theorem State.recordCommand_buf (s : State) (k : CmdClass) (cw ex : Word16) (chk : Bool) :
    (s.recordCommand k cw ex chk).buf = s.buf := rfl
@[simp] theorem State.recordCommand_sess (s : State) (k : CmdClass) (cw ex : Word16) (chk : Bool) :
    (s.recordCommand k cw ex chk).sess = .awaitingAck := rfl
@[simp] theorem State.recordCommand_hs (s : State) (k : CmdClass) (cw ex : Word16) (chk : Bool) :
    (s.recordCommand k cw ex chk).hs = .sent := rfl
@[simp] theorem State.recordCommand_failReason (s : State) (k : CmdClass) (cw ex : Word16) (chk : Bool) :
    (s.recordCommand k cw ex chk).failReason = .none := rfl
@[simp] theorem State.recordCommand_tmoCnt (s : State) (k : CmdClass) (cw ex : Word16) (chk : Bool) :
    (s.recordCommand k cw ex chk).tmoCnt = s.cfg.timeoutTicks := rfl
@[simp] theorem State.recordCommand_tfam (s : State) (k : CmdClass) (cw ex : Word16) (chk : Bool) :
    (s.recordCommand k cw ex chk).tfam = s.tfam := rfl
@[simp] theorem State.recordCommand_pClass (s : State) (k : CmdClass) (cw ex : Word16) (chk : Bool) :
    (s.recordCommand k cw ex chk).pClass = k := rfl
@[simp] theorem State.recordCommand_pCw (s : State) (k : CmdClass) (cw ex : Word16) (chk : Bool) :
    (s.recordCommand k cw ex chk).pCw = cw := rfl
@[simp] theorem State.recordCommand_pExpect (s : State) (k : CmdClass) (cw ex : Word16) (chk : Bool) :
    (s.recordCommand k cw ex chk).pExpect = ex := rfl
@[simp] theorem State.recordCommand_pChk (s : State) (k : CmdClass) (cw ex : Word16) (chk : Bool) :
    (s.recordCommand k cw ex chk).pChk = chk := rfl
@[simp] theorem State.recordCommand_pPrior (s : State) (k : CmdClass) (cw ex : Word16) (chk : Bool) :
    (s.recordCommand k cw ex chk).pPrior = decide (s.sess = .configuring) := rfl
@[simp] theorem State.recordCommand_rpCw (s : State) (k : CmdClass) (cw ex : Word16) (chk : Bool) :
    (s.recordCommand k cw ex chk).rpCw = s.rpCw := rfl
@[simp] theorem State.recordCommand_rpLen (s : State) (k : CmdClass) (cw ex : Word16) (chk : Bool) :
    (s.recordCommand k cw ex chk).rpLen = s.rpLen := rfl
@[simp] theorem State.recordCommand_rpPayload (s : State) (k : CmdClass) (cw ex : Word16) (chk : Bool) :
    (s.recordCommand k cw ex chk).rpPayload = s.rpPayload := rfl
@[simp] theorem State.recordCommand_pos (s : State) (k : CmdClass) (cw ex : Word16) (chk : Bool) :
    (s.recordCommand k cw ex chk).pos = s.pos := rfl
@[simp] theorem State.recordCommand_events (s : State) (k : CmdClass) (cw ex : Word16) (chk : Bool) :
    (s.recordCommand k cw ex chk).events = s.events := rfl
@[simp] theorem State.recordCommand_result (s : State) (k : CmdClass) (cw ex : Word16) (chk : Bool) :
    (s.recordCommand k cw ex chk).result = s.result := rfl
@[simp] theorem State.recordCommand_inq (s : State) (k : CmdClass) (cw ex : Word16) (chk : Bool) :
    (s.recordCommand k cw ex chk).inq = s.inq := rfl

/-! ### dequeue -/

@[simp] theorem State.dequeue_cfg (s : State) (bs : List Byte) : (s.dequeue bs).cfg = s.cfg := rfl
@[simp] theorem State.dequeue_buf (s : State) (bs : List Byte) : (s.dequeue bs).buf = s.buf := rfl
@[simp] theorem State.dequeue_sess (s : State) (bs : List Byte) : (s.dequeue bs).sess = s.sess := rfl
@[simp] theorem State.dequeue_hs (s : State) (bs : List Byte) : (s.dequeue bs).hs = s.hs := rfl
@[simp] theorem State.dequeue_failReason (s : State) (bs : List Byte) :
    (s.dequeue bs).failReason = s.failReason := rfl
@[simp] theorem State.dequeue_tmoCnt (s : State) (bs : List Byte) : (s.dequeue bs).tmoCnt = s.tmoCnt := rfl
@[simp] theorem State.dequeue_tfam (s : State) (bs : List Byte) : (s.dequeue bs).tfam = s.tfam := rfl
@[simp] theorem State.dequeue_pClass (s : State) (bs : List Byte) : (s.dequeue bs).pClass = s.pClass := rfl
@[simp] theorem State.dequeue_pCw (s : State) (bs : List Byte) : (s.dequeue bs).pCw = s.pCw := rfl
@[simp] theorem State.dequeue_pExpect (s : State) (bs : List Byte) : (s.dequeue bs).pExpect = s.pExpect := rfl
@[simp] theorem State.dequeue_pChk (s : State) (bs : List Byte) : (s.dequeue bs).pChk = s.pChk := rfl
@[simp] theorem State.dequeue_pPrior (s : State) (bs : List Byte) : (s.dequeue bs).pPrior = s.pPrior := rfl
@[simp] theorem State.dequeue_rpCw (s : State) (bs : List Byte) : (s.dequeue bs).rpCw = s.rpCw := rfl
@[simp] theorem State.dequeue_rpLen (s : State) (bs : List Byte) : (s.dequeue bs).rpLen = s.rpLen := rfl
@[simp] theorem State.dequeue_rpPayload (s : State) (bs : List Byte) : (s.dequeue bs).rpPayload = s.rpPayload := rfl
@[simp] theorem State.dequeue_pos (s : State) (bs : List Byte) : (s.dequeue bs).pos = s.pos := rfl
@[simp] theorem State.dequeue_events (s : State) (bs : List Byte) : (s.dequeue bs).events = s.events := rfl
@[simp] theorem State.dequeue_result (s : State) (bs : List Byte) : (s.dequeue bs).result = s.result := rfl
@[simp] theorem State.dequeue_inq (s : State) (bs : List Byte) : (s.dequeue bs).inq = bs := rfl

/-! ### FAMILY under the updates that leave `sess` and `tfam` -/

@[simp] theorem State.opStart_family (s : State) : s.opStart.family = s.family := rfl
@[simp] theorem State.emit_family (s : State) (e : Event) : (s.emit e).family = s.family := rfl
@[simp] theorem State.setResult_family (s : State) (r : OpResult) : (s.setResult r).family = s.family := rfl
@[simp] theorem State.appendByte_family (s : State) (b : Byte) : (s.appendByte b).family = s.family := rfl
@[simp] theorem State.removePrefix_family (s : State) (n : Nat) : (s.removePrefix n).family = s.family := rfl
@[simp] theorem State.clearBuf_family (s : State) : s.clearBuf.family = s.family := rfl
@[simp] theorem State.storeReply_family (s : State) (cw : Word16) (p : List Byte) :
    (s.storeReply cw p).family = s.family := rfl
@[simp] theorem State.dequeue_family (s : State) (bs : List Byte) : (s.dequeue bs).family = s.family := rfl

end Sys2Proof.Machine
end

