-- ==== Sys2Proof/Laws/Ops.lean ====
section
/-! SUPPORT. What the shared operations can do: reads, marker search, the header and tail tests. -/

namespace Sys2Proof.Machine

/-! ### Reads -/

theorem memRead_eq_ok {m : List Byte} {off n : Nat} (h : off + n ≤ m.length) :
    memRead m off n = .ok ((m.drop off).take n) := by simp [memRead, h]

theorem memRead_ok_iff {m w : List Byte} {off n : Nat} :
    memRead m off n = .ok w ↔ off + n ≤ m.length ∧ w = (m.drop off).take n := by
  unfold memRead
  split
  · rename_i h
    constructor
    · intro e; cases e; exact ⟨h, rfl⟩
    · rintro ⟨_, rfl⟩; rfl
  · rename_i h
    constructor
    · intro e; cases e
    · rintro ⟨h', _⟩; exact absurd h' h

theorem byteAt_eq_ok {m : List Byte} {i : Nat} (h : i < m.length) : byteAt m i = .ok m[i] := by
  simp [byteAt, List.getElem?_eq_getElem h]

/-! ### The marker search (42_stream_synchronizer.md R142) -/

theorem startMarker_ne_nil (f : Family) : 0 < (startMarker f).length := by cases f <;> decide

theorem startMarker_length_le (f : Family) : (startMarker f).length ≤ markerMax := by cases f <;> decide

theorem matchAt_iff {s m : List Byte} {off : Nat} :
    matchAt s off m = true ↔ off + m.length ≤ s.length ∧ (s.drop off).take m.length = m := by
  simp [matchAt]

theorem firstMatch_some {buf m : List Byte} {i : Nat} (h : firstMatch buf m = some i) :
    i + m.length ≤ buf.length ∧ (buf.drop i).take m.length = m ∧ ∀ j < i, matchAt buf j m = false := by
  unfold firstMatch at h
  rw [List.find?_range_eq_some] at h
  obtain ⟨hm, -, hmin⟩ := h
  obtain ⟨h1, h2⟩ := matchAt_iff.mp hm
  exact ⟨h1, h2, fun j hj => by simpa using hmin j hj⟩

theorem firstMatch_none {buf m : List Byte} (h : firstMatch buf m = none) (i : Nat) : matchAt buf i m = false := by
  unfold firstMatch at h
  rw [List.find?_range_eq_none] at h
  by_contra hc
  have hm : matchAt buf i m = true := by simpa using hc
  have hb := (matchAt_iff.mp hm).1
  have := h i (by omega)
  simp [hm] at this

theorem keepLen_le (buf m : List Byte) : keepLen buf m ≤ buf.length := by
  unfold keepLen
  cases h : (List.range (min buf.length (m.length - 1) + 1)).reverse.find? fun r =>
    decide (buf.drop (buf.length - r) = m.take r) with
  | none => simp
  | some r =>
    have := List.mem_of_find?_eq_some h
    simp at this
    simp; omega

end Sys2Proof.Machine
end

