-- ==== Sys2Proof/Laws/Scan.lean ====
section
/-! SUPPORT. What EXTRACT can do, said once: it removes a prefix of `buf`, emits only FORMAT_ERROR and CHECKSUM_ERROR
diagnostics, never faults, and returns a validated window or leaves a waiting buffer (42_stream_synchronizer.md R143 to
R148, R151, R152). -/

namespace Sys2Proof.Machine

/-! ### Removing a prefix and emitting events, composed -/

/-- Events appended to those emitted so far. -/
def State.emitAll (evs : List Event) (s : State) : State := { s with events := s.events ++ evs }

/-- The effect of a scan: a prefix of `buf` removed, events emitted. -/
def State.scanned (n : Nat) (evs : List Event) (s : State) : State := (s.removePrefix n).emitAll evs

@[simp] theorem State.scanned_cfg (s : State) (n : Nat) (evs : List Event) : (s.scanned n evs).cfg = s.cfg := rfl
@[simp] theorem State.scanned_buf (s : State) (n : Nat) (evs : List Event) :
    (s.scanned n evs).buf = s.buf.drop n := rfl
@[simp] theorem State.scanned_sess (s : State) (n : Nat) (evs : List Event) : (s.scanned n evs).sess = s.sess := rfl
@[simp] theorem State.scanned_hs (s : State) (n : Nat) (evs : List Event) : (s.scanned n evs).hs = s.hs := rfl
@[simp] theorem State.scanned_failReason (s : State) (n : Nat) (evs : List Event) :
    (s.scanned n evs).failReason = s.failReason := rfl
@[simp] theorem State.scanned_tmoCnt (s : State) (n : Nat) (evs : List Event) :
    (s.scanned n evs).tmoCnt = s.tmoCnt := rfl
@[simp] theorem State.scanned_tfam (s : State) (n : Nat) (evs : List Event) : (s.scanned n evs).tfam = s.tfam := rfl
@[simp] theorem State.scanned_pClass (s : State) (n : Nat) (evs : List Event) :
    (s.scanned n evs).pClass = s.pClass := rfl
@[simp] theorem State.scanned_pCw (s : State) (n : Nat) (evs : List Event) : (s.scanned n evs).pCw = s.pCw := rfl
@[simp] theorem State.scanned_pExpect (s : State) (n : Nat) (evs : List Event) :
    (s.scanned n evs).pExpect = s.pExpect := rfl
@[simp] theorem State.scanned_pChk (s : State) (n : Nat) (evs : List Event) : (s.scanned n evs).pChk = s.pChk := rfl
@[simp] theorem State.scanned_pPrior (s : State) (n : Nat) (evs : List Event) :
    (s.scanned n evs).pPrior = s.pPrior := rfl
@[simp] theorem State.scanned_rpCw (s : State) (n : Nat) (evs : List Event) : (s.scanned n evs).rpCw = s.rpCw := rfl
@[simp] theorem State.scanned_rpLen (s : State) (n : Nat) (evs : List Event) :
    (s.scanned n evs).rpLen = s.rpLen := rfl
@[simp] theorem State.scanned_rpPayload (s : State) (n : Nat) (evs : List Event) :
    (s.scanned n evs).rpPayload = s.rpPayload := rfl
@[simp] theorem State.scanned_pos (s : State) (n : Nat) (evs : List Event) :
    (s.scanned n evs).pos = s.pos + min n s.buf.length := rfl
@[simp] theorem State.scanned_events (s : State) (n : Nat) (evs : List Event) :
    (s.scanned n evs).events = s.events ++ evs := rfl
@[simp] theorem State.scanned_result (s : State) (n : Nat) (evs : List Event) :
    (s.scanned n evs).result = s.result := rfl
@[simp] theorem State.scanned_inq (s : State) (n : Nat) (evs : List Event) : (s.scanned n evs).inq = s.inq := rfl
@[simp] theorem State.scanned_family (s : State) (n : Nat) (evs : List Event) :
    (s.scanned n evs).family = s.family := rfl

theorem State.removePrefix_eq_scanned (s : State) (n : Nat) : s.removePrefix n = s.scanned n [] := by
  simp [State.scanned, State.emitAll, State.removePrefix]

theorem State.scanned_scanned (s : State) (n k : Nat) (es fs : List Event) :
    (s.scanned n es).scanned k fs = s.scanned (n + k) (es ++ fs) := by
  simp only [State.scanned, State.emitAll, State.removePrefix, List.drop_drop, List.append_assoc, List.length_drop]
  congr 1
  omega

theorem State.scanned_eq_self (s : State) : s.scanned 0 [] = s := by
  simp [State.scanned, State.emitAll, State.removePrefix]

theorem State.raise_formatError_eq (s : State) : s.raise .formatError = s.scanned 1 [.diag .formatError] := rfl

theorem State.raise_checksumError_eq (s : State) : s.raise .checksumError = s.scanned 1 [.diag .checksumError] := rfl

/-- The diagnostic a failed tail emits. -/
def tailDiag (c : Config) (f : Family) : DiagCode :=
  match f, c.cfgTerm with
  | .cfg, .checksum => .checksumError
  | _, _ => .formatError

theorem State.raise_tailError_eq (s : State) (c : Config) (f : Family) :
    s.raise (tailError c f) = s.scanned 1 [.diag (tailDiag c f)] := by
  unfold tailError tailDiag
  cases f <;> cases c.cfgTerm <;> rfl

theorem tailDiag_cases (c : Config) (f : Family) :
    tailDiag c f = .formatError ∨ tailDiag c f = .checksumError := by
  unfold tailDiag
  cases f <;> cases c.cfgTerm <;> simp

/-! ### The header test (42_stream_synchronizer.md R146) -/

/-- HEADER_LENGTH never faults. -/
theorem headerLength_isOk (c : Config) (f : Family) (buf : List Byte) : ∃ h, headerLength c f buf = .ok h := by
  cases f with
  | min => exact ⟨_, rfl⟩
  | std =>
    simp only [headerLength]
    split
    · exact ⟨_, rfl⟩
    · rename_i h
      rw [byteAt_eq_ok (by omega : 4 < buf.length), byteAt_eq_ok (by omega : 5 < buf.length)]
      simp only [bind, Except.bind]
      split <;> exact ⟨_, rfl⟩
  | cfg =>
    simp only [headerLength]
    split
    · exact ⟨_, rfl⟩
    · rename_i h
      rw [byteAt_eq_ok (by omega : 4 < buf.length), byteAt_eq_ok (by omega : 5 < buf.length)]
      simp only [bind, Except.bind]
      split <;> exact ⟨_, rfl⟩

/-- What a total length says, family by family. -/
theorem headerLength_total {c : Config} {f : Family} {buf : List Byte} {T : Nat}
    (h : headerLength c f buf = .ok (.total T)) :
    (f = .min ∧ T = 5) ∨
    (f = .std ∧ T = 17 + c.maxGates ∧ 6 ≤ buf.length ∧
      ∃ a b, buf[4]? = some a ∧ buf[5]? = some b ∧ u16std c a b = 7 + c.maxGates) ∨
    (f = .cfg ∧ 6 ≤ buf.length ∧ T ≤ c.cap ∧
      ∃ a b, buf[4]? = some a ∧ buf[5]? = some b ∧ 2 ≤ u16le a b ∧ T = cfgTotal c (u16le a b)) := by
  cases f with
  | min =>
    simp only [headerLength, Except.ok.injEq, Header.total.injEq] at h
    exact .inl ⟨rfl, h.symm⟩
  | std =>
    simp only [headerLength] at h
    split at h
    · cases h
    · rename_i hl
      rw [byteAt_eq_ok (by omega : 4 < buf.length), byteAt_eq_ok (by omega : 5 < buf.length)] at h
      simp only [bind, Except.bind] at h
      split at h
      · cases h
      · rename_i hL
        simp only [Except.ok.injEq, Header.total.injEq] at h
        refine .inr (.inl ⟨rfl, by omega, by omega, buf[4], buf[5], ?_, ?_, by omega⟩) <;> simp
  | cfg =>
    simp only [headerLength] at h
    split at h
    · cases h
    · rename_i hl
      rw [byteAt_eq_ok (by omega : 4 < buf.length), byteAt_eq_ok (by omega : 5 < buf.length)] at h
      simp only [bind, Except.bind] at h
      split at h
      · cases h
      · rename_i hL
        simp only [Except.ok.injEq, Header.total.injEq] at h
        refine .inr (.inr ⟨rfl, by omega, by omega, buf[4], buf[5], by simp, by simp, by omega, h.symm⟩)

theorem headerLength_total_ge {c : Config} {f : Family} {buf : List Byte} {T : Nat}
    (h : headerLength c f buf = .ok (.total T)) : 5 ≤ T ∧ (f ≠ .min → 9 ≤ T) := by
  rcases headerLength_total h with ⟨rfl, rfl⟩ | ⟨rfl, rfl, -⟩ | ⟨rfl, -, -, a, b, -, -, hL, rfl⟩
  · exact ⟨le_refl _, fun h => absurd rfl h⟩
  · exact ⟨by omega, fun _ => by omega⟩
  · unfold cfgTotal
    cases c.cfgTerm <;> exact ⟨by simp only; omega, fun _ => by simp only; omega⟩

/-- The header test reads six bytes at most: it says the same of any shorter prefix that holds them. -/
theorem headerLength_take {c : Config} {f : Family} {buf : List Byte} {T : Nat} (hT : T ≤ buf.length)
    (h : headerLength c f buf = .ok (.total T)) : headerLength c f (buf.take T) = .ok (.total T) := by
  have hge := headerLength_total_ge h
  cases f with
  | min => exact h
  | std =>
    have h9 := hge.2 (by decide)
    rw [← h]
    have hb : ¬ buf.length < 6 := by omega
    have ht : ¬ (buf.take T).length < 6 := by rw [List.length_take]; omega
    simp only [headerLength, if_neg hb, if_neg ht, byteAt, List.getElem?_take, if_pos (by omega : 4 < T),
      if_pos (by omega : 5 < T)]
  | cfg =>
    have h9 := hge.2 (by decide)
    rw [← h]
    have hb : ¬ buf.length < 6 := by omega
    have ht : ¬ (buf.take T).length < 6 := by rw [List.length_take]; omega
    simp only [headerLength, if_neg hb, if_neg ht, byteAt, List.getElem?_take, if_pos (by omega : 4 < T),
      if_pos (by omega : 5 < T)]

/-! ### The tail test (42_stream_synchronizer.md R147) -/

/-- TAIL_OK never faults on a window as long as its header says. -/
theorem tailOk_isOk {c : Config} {f : Family} {w : List Byte} (h5 : 5 ≤ w.length) :
    ∃ b, tailOk c f w = .ok b := by
  have hm : memRead w (w.length - 4) 4 = .ok ((w.drop (w.length - 4)).take 4) := memRead_eq_ok (by omega)
  cases f with
  | min =>
    simp only [tailOk, byteAt_eq_ok (by omega : 4 < w.length), bind, Except.bind]
    exact ⟨_, rfl⟩
  | std =>
    simp only [tailOk, hm, bind, Except.bind]
    exact ⟨_, rfl⟩
  | cfg =>
    simp only [tailOk]
    cases c.cfgTerm with
    | marker =>
      simp only [hm, bind, Except.bind]
      exact ⟨_, rfl⟩
    | checksum =>
      have hb : byteAt w (w.length - 1) = .ok w[w.length - 1] := byteAt_eq_ok (by omega)
      have hr : memRead w 0 (w.length - 1) = .ok ((w.drop 0).take (w.length - 1)) := memRead_eq_ok (by omega)
      simp only [hb, hr, bind, Except.bind]
      exact ⟨_, rfl⟩

/-! ### EXTRACT -/

/-- A window EXTRACT may return: the start marker, a header that gives its length, and a tail that passes
(43_command_ack.md R173, 41_telemetry_decoder.md R125). -/
structure Validated (c : Config) (f : Family) (w : List Byte) : Prop where
  start : w.take (startMarker f).length = startMarker f
  header : headerLength c f w = .ok (.total w.length)
  tail : tailOk c f w = .ok true

/-- A buffer on which EXTRACT waits: a proper prefix of the start marker, or a candidate that is not complete
(42_stream_synchronizer.md R151). -/
inductive Waiting (c : Config) (f : Family) (buf : List Byte) : Prop where
  | partMarker (r : Nat) (hr : r < (startMarker f).length) (hb : buf = (startMarker f).take r)
  | needMore (hs : matchAt buf 0 (startMarker f) = true) (hh : headerLength c f buf = .ok .needMore)
  | incomplete (T : Nat) (hs : matchAt buf 0 (startMarker f) = true)
      (hh : headerLength c f buf = .ok (.total T)) (hT : buf.length < T)

/-- A diagnostic that EXTRACT may emit. -/
def IsScanDiag (e : Event) : Prop := e = .diag .formatError ∨ e = .diag .checksumError

theorem keepLen_spec (buf m : List Byte) (hm : 0 < m.length) :
    keepLen buf m < m.length ∧ buf.drop (buf.length - keepLen buf m) = m.take (keepLen buf m) := by
  unfold keepLen
  cases h : (List.range (min buf.length (m.length - 1) + 1)).reverse.find? fun r =>
    decide (buf.drop (buf.length - r) = m.take r) with
  | none => simp [hm]
  | some r =>
    have h1 := List.mem_of_find?_eq_some h
    have h2 := List.find?_some h
    simp only [List.mem_reverse, List.mem_range] at h1
    simp only [decide_eq_true_eq] at h2
    exact ⟨by simp only [Option.getD_some]; omega, by simpa using h2⟩

/-- Everything EXTRACT's loop can do. -/
theorem extractLoop_spec (f : Family) : ∀ (fuel : Nat) (s : State), s.buf.length < fuel →
    ∃ n evs r, extractLoop f fuel s = .ok (s.scanned n evs, r) ∧ n ≤ s.buf.length ∧
      (∀ e ∈ evs, IsScanDiag e) ∧
      match r with
      | none => Waiting s.cfg f (s.buf.drop n)
      | some w => Validated s.cfg f w ∧ 5 ≤ w.length ∧ w.length ≤ n ∧
          w = (s.buf.drop (n - w.length)).take w.length := by
  intro fuel
  induction fuel with
  | zero => intro s h; omega
  | succ fuel ih =>
    intro s hfuel
    unfold extractLoop
    cases hf : firstMatch s.buf (startMarker f) with
    | none =>
      have hk := keepLen_spec s.buf (startMarker f) (startMarker_ne_nil f)
      exact ⟨_, [], none, by rw [State.removePrefix_eq_scanned], by omega, by simp, .partMarker _ hk.1 hk.2⟩
    | some i =>
      obtain ⟨hi, hmatch, -⟩ := firstMatch_some hf
      have hM := startMarker_ne_nil f
      have hstart : matchAt (s.buf.drop i) 0 (startMarker f) = true := by
        rw [matchAt_iff]
        exact ⟨by simp only [List.length_drop]; omega, by simpa using hmatch⟩
      obtain ⟨h, hh⟩ := headerLength_isOk s.cfg f (s.buf.drop i)
      have hh' : headerLength (s.removePrefix i).cfg f (s.removePrefix i).buf = .ok h := hh
      -- the rest of the loop after one byte of a false candidate is dropped
      have hrec : ∀ d : DiagCode, IsScanDiag (.diag d) →
          ∃ n evs r, extractLoop f fuel ((s.removePrefix i).scanned 1 [.diag d]) = .ok (s.scanned n evs, r) ∧
            n ≤ s.buf.length ∧ (∀ e ∈ evs, IsScanDiag e) ∧
            match r with
            | none => Waiting s.cfg f (s.buf.drop n)
            | some w => Validated s.cfg f w ∧ 5 ≤ w.length ∧ w.length ≤ n ∧
                w = (s.buf.drop (n - w.length)).take w.length := by
        intro d hd
        rw [State.removePrefix_eq_scanned, State.scanned_scanned]
        obtain ⟨n, evs, r, he, hn, hev, hr⟩ := ih (s.scanned (i + 1) ([] ++ [.diag d]))
          (by simp only [State.scanned_buf, List.length_drop]; omega)
        simp only [State.scanned_buf, List.length_drop] at hn
        refine ⟨i + 1 + n, [] ++ [.diag d] ++ evs, r, ?_, by omega, ?_, ?_⟩
        · rw [he, State.scanned_scanned]
        · intro e he'
          simp only [List.nil_append, List.cons_append, List.mem_cons] at he'
          rcases he' with rfl | he'
          · exact hd
          · exact hev e he'
        · cases r with
          | none => simpa [List.drop_drop] using hr
          | some w =>
            simp only [State.scanned_cfg, State.scanned_buf, List.drop_drop] at hr
            obtain ⟨hv, h5, hwn, hw⟩ := hr
            refine ⟨hv, h5, by omega, ?_⟩
            rw [show i + 1 + n - w.length = i + 1 + (n - w.length) by omega]
            exact hw
      simp only [bind, Except.bind, hh']
      cases h with
      | needMore =>
        exact ⟨i, [], none, by rw [State.removePrefix_eq_scanned], by omega, by simp, .needMore hstart hh⟩
      | bad =>
        simp only [State.raise_formatError_eq]
        exact hrec .formatError (.inl rfl)
      | total T =>
        have hge := headerLength_total_ge hh
        by_cases hlt : (s.removePrefix i).buf.length < T
        · simp only [if_pos hlt]
          exact ⟨i, [], none, by rw [State.removePrefix_eq_scanned], by omega, by simp, .incomplete T hstart hh hlt⟩
        · have hT : T ≤ (s.buf.drop i).length := by simpa using hlt
          have hread : memRead (s.removePrefix i).buf 0 T = .ok ((s.buf.drop i).take T) := by
            rw [memRead_eq_ok (by simpa using hT)]; simp
          have hlen : ((s.buf.drop i).take T).length = T := by rw [List.length_take]; omega
          obtain ⟨b, hb⟩ := tailOk_isOk (c := s.cfg) (f := f) (w := (s.buf.drop i).take T) (by omega)
          simp only [if_neg hlt, hread, State.removePrefix_cfg, hb]
          cases b with
          | false =>
            simp only [Bool.false_eq_true, if_false, State.raise_tailError_eq]
            exact hrec _ (tailDiag_cases s.cfg f |>.imp (by intro h; rw [h]) (by intro h; rw [h]))
          | true =>
            simp only [if_true]
            simp only [List.length_drop] at hT
            refine ⟨i + T, [], some ((s.buf.drop i).take T), ?_, by omega, by simp, ?_, by omega, by omega, ?_⟩
            · rw [State.removePrefix_eq_scanned, State.removePrefix_eq_scanned, State.scanned_scanned]; rfl
            · refine ⟨?_, ?_, hb⟩
              · have hm5 : (startMarker f).length ≤ T := by
                  have := startMarker_length_le f
                  cases f with
                  | min => simp [startMarker, markerBytes]; omega
                  | std => have := hge.2 (by decide); simp [markerMax] at *; omega
                  | cfg => have := hge.2 (by decide); simp [markerMax] at *; omega
                rw [List.take_take, min_eq_left hm5]; exact hmatch
              · rw [hlen]; exact headerLength_take (by simp only [List.length_drop]; omega) hh
            · rw [hlen, show i + T - T = i by omega]

/-- Everything EXTRACT can do. -/
theorem extract_spec (s : State) :
    ∃ n evs r, extract s = .ok (s.scanned n evs, r) ∧ n ≤ s.buf.length ∧ (∀ e ∈ evs, IsScanDiag e) ∧
      match r with
      | none => Waiting s.cfg s.family (s.buf.drop n)
      | some w => Validated s.cfg s.family w ∧ 5 ≤ w.length ∧ w.length ≤ n ∧
          w = (s.buf.drop (n - w.length)).take w.length :=
  extractLoop_spec s.family _ s (Nat.lt_succ_self _)

end Sys2Proof.Machine
end

