-- ==== Sys2Proof/Laws/Drain.lean ====
section
/-! SUPPORT. What the dispatch of a validated frame, DRAIN and RX can do (42_stream_synchronizer.md R149, R150). -/

namespace Sys2Proof.Machine

/-! ### Dispatch of a validated frame -/

/-- A validated minimal frame, byte by byte. -/
theorem validated_min {c : Config} {w : List Byte} (h : Validated c .min w) :
    ∃ st lo hi, w = [byte 0x6E, st, lo, hi, byte 0x62] := by
  obtain ⟨hs, hh, ht⟩ := h
  rcases headerLength_total hh with ⟨-, hl⟩ | ⟨h, -⟩ | ⟨h, -⟩
  · match w, hl with
    | [a, b, c', d, e], _ =>
      refine ⟨b, c', d, ?_⟩
      simp only [startMarker, markerBytes, List.length_cons, List.length_nil, List.take_succ_cons, List.take_zero,
        List.cons.injEq, and_true] at hs
      simp [tailOk, byteAt, markerBytes, bind, Except.bind] at ht
      rw [hs, ht]
  · cases h
  · cases h

/-- DECODE_MIN of a validated frame is a record (41_telemetry_decoder.md R125). -/
theorem decodeMinWindow_validated {c : Config} {w : List Byte} (h : Validated c .min w) :
    ∃ r, decodeMinWindow c w = .ok (some r) := by
  obtain ⟨st, lo, hi, rfl⟩ := validated_min h
  exact ⟨_, rfl⟩

theorem validated_length_std {c : Config} {w : List Byte} (h : Validated c .std w) : w.length = 17 + c.maxGates := by
  rcases headerLength_total h.header with ⟨h, -⟩ | ⟨-, h, -⟩ | ⟨h, -⟩
  · cases h
  · exact h
  · cases h

/-- DECODE_STD of a validated frame is a record (41_telemetry_decoder.md R125). -/
theorem decodeStdWindow_validated {c : Config} {w : List Byte} (h : Validated c .std w) :
    ∃ r, decodeStdWindow c w = .ok (some r) := by
  have hl := validated_length_std h
  obtain ⟨hs, hh, ht⟩ := h
  rcases headerLength_total hh with ⟨h, -⟩ | ⟨-, -, -, a, b, ha, hb, hL⟩ | ⟨h, -⟩
  · cases h
  · have e4 : byteAt w 4 = .ok a := by simp [byteAt, ha]
    have e5 : byteAt w 5 = .ok b := by simp [byteAt, hb]
    have hstart : memRead w 0 4 = .ok (markerBytes .stdStart) := by
      rw [memRead_eq_ok (by omega)]; exact congrArg _ hs
    have htail : memRead w (13 + c.maxGates) 4 = .ok (markerBytes .stdEnd) := by
      rw [memRead_eq_ok (by omega)]
      simp only [tailOk, memRead_eq_ok (by omega : w.length - 4 + 4 ≤ w.length), bind, Except.bind,
        Except.ok.injEq, decide_eq_true_eq] at ht
      rw [show 13 + c.maxGates = w.length - 4 by omega, ht]
    simp only [decodeStdWindow, hstart, e4, e5, htail, hL, bind, Except.bind, ne_eq, not_true_eq_false, or_self,
      if_false, byteAt_eq_ok (by omega : 6 < w.length), byteAt_eq_ok (by omega : 7 < w.length),
      byteAt_eq_ok (by omega : 8 < w.length), byteAt_eq_ok (by omega : 9 < w.length),
      byteAt_eq_ok (by omega : 10 < w.length), byteAt_eq_ok (by omega : 11 < w.length),
      byteAt_eq_ok (by omega : 12 < w.length), memRead_eq_ok (by omega : 13 + c.maxGates ≤ w.length)]
    exact ⟨_, rfl⟩
  · cases h

/-- A window whose length field fits it has its fields (43_command_ack.md R175). -/
theorem cfgFields_ok {w : List Byte} {a b : Byte} (ha : w[4]? = some a) (hb : w[5]? = some b)
    (h8 : 8 ≤ w.length) (hL : 6 + u16le a b ≤ w.length) :
    ∃ cw, cfgFields w = .ok (cw, (w.drop 8).take (u16le a b - 2)) := by
  have e4 : byteAt w 4 = .ok a := by simp [byteAt, ha]
  have e5 : byteAt w 5 = .ok b := by simp [byteAt, hb]
  simp only [cfgFields, e4, e5, byteAt_eq_ok (by omega : 6 < w.length), byteAt_eq_ok (by omega : 7 < w.length),
    memRead_eq_ok (by omega : 8 + (u16le a b - 2) ≤ w.length), bind, Except.bind]
  exact ⟨_, rfl⟩

/-- A validated configuration frame has its fields, and its payload fits the reply registers
(42_stream_synchronizer.md R146, 10_state.md R31 (f)). -/
theorem cfgFields_validated {c : Config} {w : List Byte} (h : Validated c .cfg w) :
    ∃ cw p, cfgFields w = .ok (cw, p) ∧ p.length + 9 ≤ c.cap := by
  rcases headerLength_total h.header with ⟨h, -⟩ | ⟨h, -⟩ | ⟨-, hl, hcap, a, b, ha, hb, hL, hT⟩
  · cases h
  · cases h
  · have hT' : 7 + u16le a b ≤ w.length := by
      rw [hT]; unfold cfgTotal; cases c.cfgTerm <;> simp only <;> omega
    obtain ⟨cw, hf⟩ := cfgFields_ok ha hb (by omega) (by omega)
    refine ⟨cw, _, hf, ?_⟩
    simp only [List.length_take, List.length_drop]
    omega

/-- Everything the dispatch of a validated frame can do: one telemetry event, or the reply parser. -/
theorem dispatchFrame_spec {s : State} {f : Family} {w : List Byte} (h : Validated s.cfg f w) :
    (f = .min ∧ ∃ r, decodeMinWindow s.cfg w = .ok (some r) ∧ dispatchFrame f w s = .ok (s.emit (.tlmMin r))) ∨
    (f = .std ∧ ∃ r, decodeStdWindow s.cfg w = .ok (some r) ∧ dispatchFrame f w s = .ok (s.emit (.tlmStd r))) ∨
    (f = .cfg ∧ ∃ cw p, cfgFields w = .ok (cw, p) ∧ p.length + 9 ≤ s.cfg.cap ∧
      dispatchFrame f w s = .ok (handleReply cw p s)) := by
  cases f with
  | min =>
    obtain ⟨r, hr⟩ := decodeMinWindow_validated h
    exact .inl ⟨rfl, r, hr, by simp [dispatchFrame, hr, bind, Except.bind]⟩
  | std =>
    obtain ⟨r, hr⟩ := decodeStdWindow_validated h
    exact .inr (.inl ⟨rfl, r, hr, by simp [dispatchFrame, hr, bind, Except.bind]⟩)
  | cfg =>
    obtain ⟨cw, p, hf, hp⟩ := cfgFields_validated h
    exact .inr (.inr ⟨rfl, cw, p, hf, hp, by simp [dispatchFrame, handleCfg, hf, bind, Except.bind]⟩)

/-- Everything the reply parser can do (43_command_ack.md R175 to R177). -/
theorem handleReply_cases (cw : Word16) (p : List Byte) (s : State) :
    (s.hs = .sent ∧ cw = s.pExpect ∧ statusOk s.cfg s.pChk p = true ∧
      handleReply cw p s = ((s.storeReply cw p).ackCommand).emit (.ackDone cw p)) ∨
    (s.hs = .sent ∧ cw = s.pExpect ∧ statusOk s.cfg s.pChk p = false ∧
      handleReply cw p s = ((s.storeReply cw p).failCommand .rejected).emit (.cmdRejected cw p)) ∨
    (s.hs = .sent ∧ cw ≠ s.pExpect ∧
      handleReply cw p s = (s.emit (.diag .invalidReply)).emit (.stray cw p)) ∨
    (s.hs ≠ .sent ∧ handleReply cw p s = s.emit (.stray cw p)) := by
  unfold handleReply accept
  by_cases h1 : s.hs = .sent
  · by_cases h2 : cw = s.pExpect
    · cases h3 : statusOk s.cfg s.pChk p with
      | true => exact .inl ⟨h1, h2, rfl, by simp [h1, ← h2]⟩
      | false => exact .inr (.inl ⟨h1, h2, rfl, by simp [h1, ← h2, State.raise]⟩)
    · exact .inr (.inr (.inl ⟨h1, h2, by simp [h1, h2, State.raise]⟩))
  · exact .inr (.inr (.inr ⟨h1, by simp [h1]⟩))

@[simp] theorem handleReply_buf (cw : Word16) (p : List Byte) (s : State) : (handleReply cw p s).buf = s.buf := by
  rcases handleReply_cases cw p s with ⟨-, -, -, h⟩ | ⟨-, -, -, h⟩ | ⟨-, -, h⟩ | ⟨-, h⟩ <;> simp [h]

@[simp] theorem handleReply_cfg (cw : Word16) (p : List Byte) (s : State) : (handleReply cw p s).cfg = s.cfg := by
  rcases handleReply_cases cw p s with ⟨-, -, -, h⟩ | ⟨-, -, -, h⟩ | ⟨-, -, h⟩ | ⟨-, h⟩ <;> simp [h]

/-- The dispatch of a validated frame never faults and leaves buffer and parameters alone. -/
theorem dispatchFrame_isOk {s : State} {f : Family} {w : List Byte} (h : Validated s.cfg f w) :
    ∃ t, dispatchFrame f w s = .ok t ∧ t.buf = s.buf ∧ t.cfg = s.cfg := by
  rcases dispatchFrame_spec h with ⟨-, r, -, hd⟩ | ⟨-, r, -, hd⟩ | ⟨-, cw, p, -, -, hd⟩
  · exact ⟨_, hd, by simp, by simp⟩
  · exact ⟨_, hd, by simp, by simp⟩
  · exact ⟨_, hd, by simp, by simp⟩

/-! ### DRAIN -/

/-- DRAIN's loop ends, and where it ends EXTRACT waits (42_stream_synchronizer.md R151, R152). Whatever holds at its
start and is kept by a scan and by the dispatch of a validated frame of the active family holds at its end. -/
theorem drainLoop_spec (P : State → Prop)
    (hscan : ∀ s n evs, n ≤ s.buf.length → (∀ e ∈ evs, IsScanDiag e) → P s → P (s.scanned n evs))
    (hdisp : ∀ s w t, Validated s.cfg s.family w → dispatchFrame s.family w s = .ok t → P s → P t) :
    ∀ (fuel : Nat) (s : State), s.buf.length < fuel → P s →
      ∃ t, drainLoop fuel s = .ok t ∧ P t ∧ Waiting t.cfg t.family t.buf := by
  intro fuel
  induction fuel with
  | zero => intro s h; omega
  | succ fuel ih =>
    intro s hfuel hP
    obtain ⟨n, evs, r, he, hn, hev, hr⟩ := extract_spec s
    have hP1 := hscan s n evs hn hev hP
    cases r with
    | none => exact ⟨s.scanned n evs, by simp [drainLoop, he, bind, Except.bind], hP1, hr⟩
    | some w =>
      obtain ⟨hv, h5, hwn, -⟩ := hr
      have hv' : Validated (s.scanned n evs).cfg (s.scanned n evs).family w := hv
      obtain ⟨t, hd, hb, -⟩ := dispatchFrame_isOk hv'
      have hlt : t.buf.length < fuel := by
        rw [hb, State.scanned_buf, List.length_drop]; omega
      obtain ⟨u, hu, hPu, hw⟩ := ih t hlt (hdisp _ w t hv' hd hP1)
      refine ⟨u, ?_, hPu, hw⟩
      simp only [State.scanned_family] at hd
      simp [drainLoop, he, hd, hu, bind, Except.bind]

/-- The bound on DRAIN's passes is never used up: any two bounds above the length of `buf` give the same answer
(42_stream_synchronizer.md R152). -/
theorem drainLoop_bound (n : Nat) : ∀ (m : Nat) (s : State), s.buf.length < n → s.buf.length < m →
    drainLoop n s = drainLoop m s := by
  induction n with
  | zero => intro m s h; omega
  | succ n ih =>
    intro m s h1 h2
    obtain ⟨m, rfl⟩ : ∃ k, m = k + 1 := ⟨m - 1, by omega⟩
    obtain ⟨k, evs, r, he, hn, -, hr⟩ := extract_spec s
    simp only [drainLoop, he, bind, Except.bind]
    cases r with
    | none => rfl
    | some w =>
      obtain ⟨hv, h5, hwn, -⟩ := hr
      obtain ⟨t, hd, hb, -⟩ := dispatchFrame_isOk (s := s.scanned k evs) hv
      simp only [hd]
      apply ih <;> (rw [hb, State.scanned_buf, List.length_drop]; omega)

/-- DRAIN ends in a waiting state, and keeps whatever scans and dispatches keep. -/
theorem drain_spec (P : State → Prop)
    (hscan : ∀ s n evs, n ≤ s.buf.length → (∀ e ∈ evs, IsScanDiag e) → P s → P (s.scanned n evs))
    (hdisp : ∀ s w t, Validated s.cfg s.family w → dispatchFrame s.family w s = .ok t → P s → P t)
    (s : State) (hP : P s) : ∃ t, drain s = .ok t ∧ P t ∧ Waiting t.cfg t.family t.buf :=
  drainLoop_spec P hscan hdisp _ s (Nat.lt_succ_self _) hP

/-- DRAIN answers in every state. -/
theorem drain_isOk (s : State) : ∃ t, drain s = .ok t := by
  obtain ⟨t, h, -⟩ := drain_spec (fun _ => True) (by simp) (by simp) s trivial
  exact ⟨t, h⟩

/-- RX answers in every state. -/
theorem receive_isOk (b : Byte) (s : State) : ∃ t, receive b s = .ok t := drain_isOk _

/-- A sequence of RX answers in every state. -/
theorem receiveAll_isOk (bs : List Byte) : ∀ s : State, ∃ t, receiveAll bs s = .ok t := by
  induction bs with
  | nil => exact fun s => ⟨s, rfl⟩
  | cons b bs ih =>
    intro s
    obtain ⟨t, ht⟩ := receive_isOk b s
    obtain ⟨u, hu⟩ := ih t
    exact ⟨u, by simp [receiveAll, ht, hu, bind, Except.bind]⟩

/-- POLL answers in every state. -/
theorem poll_isOk (s : State) : ∃ t, poll s = .ok t := by
  obtain ⟨t, ht⟩ := drain_isOk s
  exact ⟨t.setResult (.poll (pollStatus t) t.pCw (pollReply t)), by simp [poll, ht, bind, Except.bind]⟩

end Sys2Proof.Machine
end

