-- ==== Sys2Proof/Laws/Waiting.lean ====
section
/-! SUPPORT. Waiting buffers: EXTRACT changes nothing on one, and one has room for the next byte
(42_stream_synchronizer.md R151, R153). -/

namespace Sys2Proof.Machine

theorem firstMatch_of_match_zero {buf m : List Byte} (h : matchAt buf 0 m = true) : firstMatch buf m = some 0 := by
  unfold firstMatch
  rw [List.find?_range_eq_some]
  refine ⟨h, ?_, by simp⟩
  have := (matchAt_iff.mp h).1
  simp only [List.mem_range]; omega

theorem firstMatch_of_short {buf m : List Byte} (h : buf.length < m.length) : firstMatch buf m = none := by
  unfold firstMatch
  rw [show buf.length + 1 - m.length = 0 by omega]
  rfl

/-- The longest suffix that is a proper prefix of the marker is the whole buffer, if the whole buffer is one. -/
theorem keepLen_of_prefix {m : List Byte} {r : Nat} (hr : r < m.length) : keepLen (m.take r) m = r := by
  have hl : (m.take r).length = r := by rw [List.length_take]; omega
  unfold keepLen
  rw [hl, show min r (m.length - 1) + 1 = r + 1 by omega, List.range_succ, List.reverse_append]
  simp

/-- On a waiting buffer EXTRACT returns `None` and changes nothing. -/
theorem extractLoop_waiting {f : Family} {s : State} (fuel : Nat) (h : Waiting s.cfg f s.buf) :
    extractLoop f (fuel + 1) s = .ok (s, none) := by
  have h0 : s.removePrefix 0 = s := by rw [State.removePrefix_eq_scanned, State.scanned_eq_self]
  cases h with
  | partMarker r hr hb =>
    have hl : s.buf.length = r := by rw [hb, List.length_take]; omega
    have hk : keepLen s.buf (startMarker f) = r := by rw [hb]; exact keepLen_of_prefix hr
    simp only [extractLoop, firstMatch_of_short (by omega : s.buf.length < (startMarker f).length), hk, hl,
      Nat.sub_self, h0]
  | needMore hs hh =>
    simp only [extractLoop, firstMatch_of_match_zero hs, h0, hh, bind, Except.bind]
  | incomplete T hs hh hT =>
    simp only [extractLoop, firstMatch_of_match_zero hs, h0, hh, if_pos hT, bind, Except.bind]

theorem extract_waiting {s : State} (h : Waiting s.cfg s.family s.buf) : extract s = .ok (s, none) :=
  extractLoop_waiting _ h

theorem drain_waiting {s : State} (h : Waiting s.cfg s.family s.buf) : drain s = .ok s := by
  simp only [drain, drainLoop, extract_waiting h, bind, Except.bind]

/-- A waiting buffer is shorter than `CAP`. -/
theorem waiting_room {c : Config} {f : Family} {buf : List Byte} (hc : c.Wf) (h : Waiting c f buf) :
    buf.length < c.cap := by
  have h1 := hc.cap_std
  have h2 := hc.cap_cfg
  cases h with
  | partMarker r hr hb =>
    have := startMarker_length_le f
    simp only [markerMax] at this
    rw [hb, List.length_take]; omega
  | needMore hs hh =>
    by_contra hb
    have h6 : ¬ buf.length < 6 := by omega
    cases f with
    | min => cases hh
    | std =>
      simp only [headerLength, if_neg h6, byteAt_eq_ok (by omega : 4 < buf.length),
        byteAt_eq_ok (by omega : 5 < buf.length), bind, Except.bind] at hh
      split at hh <;> cases hh
    | cfg =>
      simp only [headerLength, if_neg h6, byteAt_eq_ok (by omega : 4 < buf.length),
        byteAt_eq_ok (by omega : 5 < buf.length), bind, Except.bind] at hh
      split at hh <;> cases hh
  | incomplete T hs hh hT =>
    rcases headerLength_total hh with ⟨-, rfl⟩ | ⟨-, rfl, -⟩ | ⟨-, -, hcap, -⟩ <;> omega

/-- An empty buffer waits, under every family. -/
theorem waiting_nil (c : Config) (f : Family) : Waiting c f [] :=
  .partMarker 0 (startMarker_ne_nil f) (by simp)

end Sys2Proof.Machine
end

