-- ==== Sys2Proof/Laws/Memory.lean ====
section
/-! SUPPORT. The working buffer as cells, and the form every memory operation keeps (10_state.md R21). -/

namespace Sys2Proof.Machine

theorem Memory.cellsFrom_getElem? (m : Memory) : ∀ base i : Nat,
    (Memory.cellsFrom base m)[i]? = m[i]?.map fun b => (base + i, b) := by
  induction m with
  | nil => intro base i; rfl
  | cons b bs ih =>
    intro base i
    cases i with
    | zero => rfl
    | succ i =>
      simp only [Memory.cellsFrom, List.getElem?_cons_succ, ih]
      rw [show base + 1 + i = base + (i + 1) by omega]

/-- The cell at place `i` is the byte at offset `i`, with `i` for its address. -/
theorem Memory.cells_getElem? (m : Memory) (i : Nat) : m.cells[i]? = m[i]?.map fun b => (i, b) := by
  unfold Memory.cells
  rw [Memory.cellsFrom_getElem?]
  simp

theorem Memory.cellsFrom_addresses (m : Memory) : ∀ base : Nat,
    (Memory.cellsFrom base m).map Prod.fst = List.range' base m.length := by
  induction m with
  | nil => intro base; rfl
  | cons b bs ih => intro base; simp [Memory.cellsFrom, ih, List.range'_succ]

/-- The addresses rise strictly: they are `0 .. len - 1`. -/
theorem Memory.cells_addresses (m : Memory) : m.cells.map Prod.fst = List.range' 0 m.length :=
  Memory.cellsFrom_addresses m 0

theorem Memory.cells_sorted (m : Memory) : (m.cells.map Prod.fst).Pairwise (· < ·) := by
  rw [Memory.cells_addresses]; exact List.pairwise_lt_range'

/-- Equal cells are equal buffers. -/
theorem Memory.cells_injective {m n : Memory} (h : m.cells = n.cells) : m = n := by
  apply List.ext_getElem?
  intro i
  have := congrArg (·[i]?) h
  simp only [Memory.cells_getElem?] at this
  cases hm : m[i]? <;> cases hn : n[i]? <;> simp_all

theorem reset_buf_wf (c : Config) : Memory.wf c (State.resetWith c).buf := Nat.zero_le _

theorem clearBuf_wf (s : State) : Memory.wf s.cfg s.clearBuf.buf := Nat.zero_le _

theorem removePrefix_wf {s : State} (n : Nat) (h : Memory.wf s.cfg s.buf) :
    Memory.wf s.cfg (s.removePrefix n).buf := by
  simp only [Memory.wf, State.removePrefix_buf, List.length_drop] at *; omega

theorem appendByte_wf {s : State} (b : Byte) (h : s.buf.length < s.cfg.cap) :
    Memory.wf s.cfg (s.appendByte b).buf := by
  simp only [Memory.wf, State.appendByte_buf, List.length_append, List.length_cons, List.length_nil]; omega

/-- Everything FEED can do (42_stream_synchronizer.md R141). -/
theorem feed_cases (b : Byte) (s : State) :
    (s.buf.length < s.cfg.cap ∧ feed b s = s.appendByte b) ∨
    (s.cfg.cap ≤ s.buf.length ∧ feed b s =
      ((s.appendByte b).removePrefix (s.buf.length + 1 - markerMax)).emit (.diag .overflow)) := by
  unfold feed
  by_cases h : s.buf.length < s.cfg.cap
  · exact .inl ⟨h, by simp [h]⟩
  · exact .inr ⟨by omega, by simp [h]⟩

theorem feed_wf {s : State} (b : Byte) (hc : s.cfg.Wf) : Memory.wf s.cfg (feed b s).buf := by
  rcases feed_cases b s with ⟨h, he⟩ | ⟨h, he⟩
  · rw [he]; exact appendByte_wf b h
  · have := hc.cap_cfg
    simp only [Memory.wf, he, State.emit_buf, State.removePrefix_buf, State.appendByte_buf, List.length_drop,
      List.length_append, List.length_cons, List.length_nil, markerMax]
    omega

/-- EXTRACT keeps the form: it only removes a prefix. -/
theorem extract_wf {s t : State} {r : Option (List Byte)} (h : Memory.wf s.cfg s.buf) (he : extract s = .ok (t, r)) :
    Memory.wf t.cfg t.buf := by
  obtain ⟨n, evs, r', he', hn, -⟩ := extract_spec s
  rw [he] at he'
  cases he'
  simp only [Memory.wf, State.scanned_cfg, State.scanned_buf, List.length_drop] at *; omega

/-- DRAIN keeps the form. -/
theorem drain_wf {s t : State} (h : Memory.wf s.cfg s.buf) (hd : drain s = .ok t) : Memory.wf t.cfg t.buf := by
  obtain ⟨t', hd', hP, -⟩ := drain_spec (fun u => Memory.wf u.cfg u.buf)
    (fun u n evs _ _ hu => by simp only [Memory.wf, State.scanned_cfg, State.scanned_buf, List.length_drop] at *; omega)
    (fun u w v hv hdv hu => by
      obtain ⟨v', hv', hb, hc⟩ := dispatchFrame_isOk hv
      rw [hdv] at hv'; cases hv'
      simpa only [Memory.wf, hb, hc] using hu)
    s h
  rw [hd] at hd'; cases hd'; exact hP

end Sys2Proof.Machine
end

