-- ==== Sys2Proof/Laws/Sequences.lean ====
section
/-! SUPPORT. The host sequences answer in every state (44_session_controller.md R209 to R212). -/

namespace Sys2Proof.Machine

theorem runEnvOp_isOk (e : EnvOp) (s : State) : ∃ t, runEnvOp e s = .ok t := by
  cases e with
  | rx b => exact receive_isOk b s
  | tick => exact ⟨_, rfl⟩
  | xerr => exact ⟨_, rfl⟩

theorem runEnv_isOk (es : List EnvOp) : ∀ s : State, ∃ t, runEnv es s = .ok t := by
  induction es with
  | nil => exact fun s => ⟨s, rfl⟩
  | cons e es ih =>
    intro s
    obtain ⟨t, ht⟩ := runEnvOp_isOk e s
    obtain ⟨u, hu⟩ := ih t
    exact ⟨u, by simp [runEnv, ht, hu, bind, Except.bind]⟩

theorem nextSlot_isOk (sched : Schedule) (s : State) : ∃ r, nextSlot sched s = .ok r := by
  cases sched with
  | nil => exact ⟨_, rfl⟩
  | cons es rest =>
    obtain ⟨t, ht⟩ := runEnv_isOk es s
    exact ⟨(rest, t), by simp [nextSlot, ht, bind, Except.bind]⟩

theorem await_isOk (sched : Schedule) : ∀ s : State, ∃ r, await sched s = .ok r := by
  induction sched with
  | nil =>
    intro s
    obtain ⟨t, ht⟩ := poll_isOk s
    simp only [await, ht, bind, Except.bind]
    split <;> exact ⟨_, rfl⟩
  | cons es rest ih =>
    intro s
    obtain ⟨t, ht⟩ := runEnv_isOk es s
    obtain ⟨u, hu⟩ := poll_isOk t
    simp only [await, ht, hu, bind, Except.bind]
    split
    · exact ih u
    · exact ⟨_, rfl⟩

theorem attempts_isOk (m : Command) (p : List Byte) (n : Nat) :
    ∀ (last : SeqError) (sched : Schedule) (s : State), ∃ r, attempts m p n last sched s = .ok r := by
  induction n with
  | zero => exact fun last sched s => ⟨_, rfl⟩
  | succ n ih =>
    intro last sched s
    obtain ⟨⟨sched1, t⟩, ht⟩ := nextSlot_isOk sched s
    simp only [attempts, ht, bind, Except.bind]
    split
    · obtain ⟨⟨r, sched2, u⟩, hu⟩ := await_isOk sched1 (issueCommand m p t)
      simp only [hu]
      cases r with
      | none => exact ⟨_, rfl⟩
      | some st => cases st <;> first | exact ⟨_, rfl⟩ | exact ih _ _ _
    · exact ⟨_, rfl⟩

theorem runCommand_isOk (m : Command) (p : List Byte) (sched : Schedule) (s : State) :
    ∃ r, runCommand m p sched s = .ok r := attempts_isOk m p _ _ _ _

theorem runExit_isOk (p : List Byte) (sched : Schedule) (s : State) : ∃ r, runExit p sched s = .ok r := by
  obtain ⟨⟨sched1, t⟩, ht⟩ := nextSlot_isOk sched s
  simp only [runExit, cancelPending, ht, bind, Except.bind]
  exact runCommand_isOk _ _ _ _

theorem runGroups_isOk (gs : List (Command × List Byte)) :
    ∀ (sched : Schedule) (s : State), ∃ r, runGroups gs sched s = .ok r := by
  induction gs with
  | nil => exact fun sched s => ⟨_, rfl⟩
  | cons g gs ih =>
    intro sched s
    obtain ⟨m, p⟩ := g
    obtain ⟨⟨r, sched1, t⟩, ht⟩ := runCommand_isOk m p sched s
    simp only [runGroups, ht, bind, Except.bind]
    cases r with
    | success => exact ih _ _
    | error e => exact ⟨_, rfl⟩
    | waiting => exact ⟨_, rfl⟩

theorem runEnterAndGroups_isOk (ps : ParamSet) (p : Payloads) (sched : Schedule) (s : State) :
    ∃ r, runEnterAndGroups ps p sched s = .ok r := by
  obtain ⟨⟨r, sched1, t⟩, ht⟩ := runCommand_isOk .enterConfig p.enter sched s
  simp only [runEnterAndGroups, ht, bind, Except.bind]
  cases r with
  | success => exact runGroups_isOk _ _ _
  | error e => exact ⟨_, rfl⟩
  | waiting => exact ⟨_, rfl⟩

theorem runApply_isOk (ps : ParamSet) (p : Payloads) (sched : Schedule) (s : State) :
    ∃ r, runApply ps p sched s = .ok r := by
  obtain ⟨⟨r, sched1, t⟩, ht⟩ := runEnterAndGroups_isOk ps p sched s
  simp only [runApply, ht, bind, Except.bind]
  cases r with
  | waiting => exact ⟨_, rfl⟩
  | success =>
    obtain ⟨⟨e, sched2, u⟩, hu⟩ := runExit_isOk p.exit sched1 t
    exact ⟨_, by simp only [hu]; rfl⟩
  | error e' =>
    obtain ⟨⟨e, sched2, u⟩, hu⟩ := runExit_isOk p.exit sched1 t
    exact ⟨_, by simp only [hu]; rfl⟩

end Sys2Proof.Machine
end

