-- ==== Sys2Proof/Laws/Closure.lean ====
section
/-! SUPPORT. What each operation can do, said once, and what everything built from the operations keeps: a property of
states that each elementary change keeps is kept by DRAIN, by RX, by POLL and by the host sequences. -/

namespace Sys2Proof.Machine

theorem toOut_next {x : Except Fault State} {t : State} : toOut x = .next t ↔ x = .ok t := by
  cases x <;> simp [toOut]

/-! ### The operations of the handler -/

/-- The three ways an ISSUE ends (43_command_ack.md R171, R172). -/
theorem issue_cases (cls : BitVec 2) (cw ex : Word16) (chk : Bool) (p : List Byte) (s : State) :
    (issue cls cw ex chk p s = s.setResult .busy ∧ s.hs = .sent) ∨
    (issue cls cw ex chk p s = s.setResult .invalidArgument ∧ s.hs ≠ .sent) ∨
    (s.hs ≠ .sent ∧ ∃ k frame, classOf cls = some k ∧ p.length ≤ s.cfg.txPayloadMax ∧
      encodeFrame s.cfg cw p = some frame ∧
      issue cls cw ex chk p s =
        ((((s.emit .flushInput).clearBuf).emit (.tx frame)).recordCommand k cw ex chk).setResult .ok) := by
  unfold issue
  by_cases h : s.hs = .sent
  · simp [h, State.raise]
  · simp only [h, if_false]
    cases h1 : classOf cls with
    | none => simp [State.raise, h]
    | some k =>
      cases h2 : encodeFrame s.cfg cw p with
      | none => simp [State.raise, h]
      | some f =>
        simp only []
        split
        · simp [State.raise, h]
        · right; right; exact ⟨h, k, f, rfl, by omega, rfl, rfl⟩

/-- The three ways a TICK ends (43_command_ack.md R178). -/
theorem tick_cases (s : State) :
    (s.hs ≠ .sent ∧ tick s = s) ∨
    (s.hs = .sent ∧ s.tmoCnt - 1 ≠ 0 ∧ tick s = { s with tmoCnt := s.tmoCnt - 1 }) ∨
    (s.hs = .sent ∧ s.tmoCnt - 1 = 0 ∧
      tick s = ({ s with tmoCnt := s.tmoCnt - 1 }.failCommand .timeout).emit .cmdTimeout) := by
  by_cases h : s.hs = .sent
  · by_cases h1 : s.tmoCnt - 1 = 0
    · exact .inr (.inr ⟨h, h1, by simp [tick, h, h1, State.raise]⟩)
    · exact .inr (.inl ⟨h, h1, by simp [tick, h, h1]⟩)
  · exact .inl ⟨h, by simp [tick, h]⟩

/-- The two ways an XERR ends (43_command_ack.md R181). -/
theorem xerr_cases (s : State) :
    (s.hs ≠ .sent ∧ xerr s = s.clearBuf) ∨
    (s.hs = .sent ∧ xerr s = (s.clearBuf.failCommand .transport).emit .cmdXerr) := by
  by_cases h : s.hs = .sent
  · exact .inr ⟨h, by simp [xerr, State.raise, h]⟩
  · exact .inl ⟨h, by simp [xerr, State.raise, h]⟩

/-- The two ways a CANCEL ends (43_command_ack.md R180). -/
theorem cancel_cases (s : State) :
    (s.hs ≠ .sent ∧ cancel s = s) ∨
    (s.hs = .sent ∧ cancel s = { s with hs := .idle, failReason := .none, sess := .streaming }) := by
  by_cases h : s.hs = .sent
  · exact .inr ⟨h, by simp [cancel, h]⟩
  · exact .inl ⟨h, by simp [cancel, h]⟩

/-- POLL is DRAIN with a result (43_command_ack.md R179). -/
theorem poll_spec (s : State) : ∃ t, drain s = .ok t ∧
    poll s = .ok (t.setResult (.poll (pollStatus t) t.pCw (pollReply t))) := by
  obtain ⟨t, ht⟩ := drain_isOk s
  exact ⟨t, ht, by simp only [poll, ht, bind, Except.bind]⟩

theorem pollStatus_pending {s : State} : pollStatus s = .pending ↔ s.hs = .sent := by
  unfold pollStatus; cases s.hs <;> cases s.failReason <;> simp

theorem pollStatus_acked {s : State} : pollStatus s = .acked ↔ s.hs = .acked := by
  unfold pollStatus; cases s.hs <;> cases s.failReason <;> simp

/-! ### Receiving -/

/-- A property that scanning, dispatching and FEED keep is kept by DRAIN and by RX. The family of a dispatched frame is
the session's. -/
theorem receive_closure (P : State → Prop)
    (hscan : ∀ s n evs, n ≤ s.buf.length → (∀ e ∈ evs, IsScanDiag e) → P s → P (s.scanned n evs))
    (hmin : ∀ s r, s.sess = .streaming → P s → P (s.emit (.tlmMin r)))
    (hstd : ∀ s r, s.sess = .streaming → P s → P (s.emit (.tlmStd r)))
    (hcfg : ∀ s cw p, s.sess ≠ .streaming → p.length + 9 ≤ s.cfg.cap → P s → P (handleReply cw p s))
    (hfeed : ∀ s b, P s → P (feed b s)) :
    (∀ s t, P s → drain s = .ok t → P t) ∧ (∀ b s t, P s → receive b s = .ok t → P t) ∧
    (∀ bs s t, P s → receiveAll bs s = .ok t → P t) := by
  have hdisp : ∀ s w t, Validated s.cfg s.family w → dispatchFrame s.family w s = .ok t → P s → P t := by
    intro s w t hv hd hP
    rcases dispatchFrame_spec hv with ⟨hf, r, -, hd'⟩ | ⟨hf, r, -, hd'⟩ | ⟨hf, cw, p, -, hp, hd'⟩ <;>
      rw [hd] at hd' <;> cases hd'
    · exact hmin _ _ (by revert hf; unfold State.family; cases s.sess <;> simp) hP
    · exact hstd _ _ (by revert hf; unfold State.family; cases s.sess <;> simp) hP
    · exact hcfg _ _ _ (by revert hf; unfold State.family; cases s.sess <;> cases s.tfam <;> simp) hp hP
  have hdrain : ∀ s t, P s → drain s = .ok t → P t := by
    intro s t hP h
    obtain ⟨u, hu, hPu, -⟩ := drain_spec P hscan hdisp s hP
    rw [h] at hu; cases hu; exact hPu
  have hrx : ∀ b s t, P s → receive b s = .ok t → P t := fun b s t hP h => hdrain _ _ (hfeed _ _ hP) h
  refine ⟨hdrain, hrx, ?_⟩
  intro bs
  induction bs with
  | nil => intro s t hP h; cases h; exact hP
  | cons b bs ih =>
    intro s t hP h
    simp only [receiveAll, bind, Except.bind] at h
    cases h1 : receive b s with
    | error e => rw [h1] at h; cases h
    | ok u => rw [h1] at h; exact ih _ _ (hrx _ _ _ hP h1) h

/-! ### The host sequences -/

section

variable (P : State → Prop)
    (hrecv : ∀ b s t, P s → receive b s = .ok t → P t)
    (hdrain : ∀ s t, P s → drain s = .ok t → P t)
    (htick : ∀ s, P s → P (tick s)) (hxerr : ∀ s, P s → P (xerr s)) (hcancel : ∀ s, P s → P (cancel s))
    (hissue : ∀ m p s, P s → P (issueCommand m p s))
    (hres : ∀ s r, P s → P (s.setResult r))

include hrecv htick hxerr

theorem runEnv_closure : ∀ es s t, P s → runEnv es s = .ok t → P t := by
  intro es
  induction es with
  | nil => intro s t h e; cases e; exact h
  | cons a es ih =>
    intro s t h e
    simp only [runEnv, bind, Except.bind] at e
    cases a with
    | tick => exact ih _ _ (htick _ h) e
    | xerr => exact ih _ _ (hxerr _ h) e
    | rx b =>
      simp only [runEnvOp] at e
      cases h1 : receive b s with
      | error x => rw [h1] at e; cases e
      | ok u => rw [h1] at e; exact ih _ _ (hrecv _ _ _ h h1) e

theorem nextSlot_closure : ∀ sched s x, P s → nextSlot sched s = .ok x → P x.2 := by
  intro sched s x h e
  cases sched with
  | nil => cases e; exact h
  | cons es r =>
    simp only [nextSlot, bind, Except.bind] at e
    cases h1 : runEnv es s with
    | error x => rw [h1] at e; cases e
    | ok u => rw [h1] at e; cases e; exact runEnv_closure P hrecv htick hxerr _ _ _ h h1

include hdrain hres

omit hrecv htick hxerr in
theorem poll_closure : ∀ s t, P s → poll s = .ok t → P t := by
  intro s t h e
  obtain ⟨u, hu⟩ := drain_isOk s
  simp only [poll, hu, bind, Except.bind] at e
  cases e
  exact hres _ _ (hdrain _ _ h hu)

theorem await_closure : ∀ sched s x, P s → await sched s = .ok x → P x.2.2 := by
  intro sched
  induction sched with
  | nil =>
    intro s x h e
    obtain ⟨u, hu⟩ := poll_isOk s
    simp only [await, hu, bind, Except.bind] at e
    have := poll_closure P hdrain hres _ _ h hu
    split at e <;> (cases e; exact this)
  | cons es r ih =>
    intro s x h e
    obtain ⟨v, hv⟩ := runEnv_isOk es s
    obtain ⟨u, hu⟩ := poll_isOk v
    have h1 := runEnv_closure P hrecv htick hxerr _ _ _ h hv
    have h2 := poll_closure P hdrain hres _ _ h1 hu
    simp only [await, hv, hu, bind, Except.bind] at e
    split at e
    · exact ih _ _ h2 e
    · cases e; exact h2

include hissue

theorem attempts_closure (m p) : ∀ n last sched s x, P s → attempts m p n last sched s = .ok x → P x.2.2 := by
  intro n
  induction n with
  | zero => intro last sched s x h e; cases e; exact h
  | succ n ih =>
    intro last sched s x h e
    obtain ⟨v, hv⟩ := nextSlot_isOk sched s
    have h1 := nextSlot_closure P hrecv htick hxerr _ _ _ h hv
    simp only [attempts, hv, bind, Except.bind] at e
    split at e
    · obtain ⟨u, hu⟩ := await_isOk v.1 (issueCommand m p v.2)
      have h2 := await_closure P hrecv hdrain htick hxerr hres _ _ _ (hissue m p _ h1) hu
      rw [hu] at e
      obtain ⟨r, sc, w⟩ := u
      cases r with
      | none => cases e; exact h2
      | some st => cases st <;> first | (cases e; exact h2) | exact ih _ _ _ _ h2 e
    · cases e; exact hissue m p _ h1

theorem runGroups_closure : ∀ gs sched s x, P s → runGroups gs sched s = .ok x → P x.2.2 := by
  intro gs
  induction gs with
  | nil => intro sched s x h e; cases e; exact h
  | cons g gs ih =>
    intro sched s x h e
    obtain ⟨m, p⟩ := g
    obtain ⟨⟨r, sc, u⟩, hu⟩ := runCommand_isOk m p sched s
    have h1 := attempts_closure P hrecv hdrain htick hxerr hissue hres m p _ _ _ _ _ h hu
    simp only [runGroups, hu, bind, Except.bind] at e
    cases r with
    | success => exact ih _ _ _ h1 e
    | error y => cases e; exact h1
    | waiting => cases e; exact h1

include hcancel

theorem runExit_closure (p) : ∀ sched s x, P s → runExit p sched s = .ok x → P x.2.2 := by
  intro sched s x h e
  obtain ⟨v, hv⟩ := nextSlot_isOk sched s
  have h1 := nextSlot_closure P hrecv htick hxerr _ _ _ h hv
  simp only [runExit, cancelPending, hv, bind, Except.bind] at e
  exact attempts_closure P hrecv hdrain htick hxerr hissue hres _ _ _ _ _ _ _ (hcancel _ h1) e

theorem runApply_closure (ps p) : ∀ sched s x, P s → runApply ps p sched s = .ok x → P x.2.2 := by
  intro sched s x h e
  obtain ⟨⟨r, sc, u⟩, hu⟩ := runEnterAndGroups_isOk ps p sched s
  have h1 : P u := by
    obtain ⟨⟨r', sc', u'⟩, hu'⟩ := runCommand_isOk .enterConfig p.enter sched s
    have h1 := attempts_closure P hrecv hdrain htick hxerr hissue hres _ _ _ _ _ _ _ h hu'
    simp only [runEnterAndGroups, hu', bind, Except.bind] at hu
    cases r' with
    | success => exact runGroups_closure P hrecv hdrain htick hxerr hissue hres _ _ _ _ h1 hu
    | error y => cases hu; exact h1
    | waiting => cases hu; exact h1
  simp only [runApply, hu, bind, Except.bind] at e
  obtain ⟨⟨r', sc', u'⟩, hu'⟩ := runExit_isOk p.exit sc u
  have h2 := runExit_closure P hrecv hdrain htick hxerr hcancel hissue hres _ _ _ _ h1 hu'
  simp only [hu'] at e
  cases r with
  | waiting => cases e; exact h1
  | success => cases e; exact h2
  | error y => cases e; exact h2

theorem pseudo_closure {i : Instr} {s t : State} (h0 : P s.opStart) (h : exec i s = .next t)
    (hf : i.format = .pseudo) : P t := by
  cases i <;> first | (simp [Instr.format] at hf; done) | skip
  case enterConfiguration p sched =>
    obtain ⟨⟨r, sc, u⟩, hu⟩ := runCommand_isOk .enterConfig p sched s.opStart
    simp only [exec, execEnterConfiguration, hu, seqOut] at h; cases h
    exact hres _ _ (attempts_closure P hrecv hdrain htick hxerr hissue hres _ _ _ _ _ _ _ h0 hu)
  case exitConfiguration p sched =>
    obtain ⟨⟨r, sc, u⟩, hu⟩ := runExit_isOk p sched s.opStart
    simp only [exec, execExitConfiguration, hu, seqOut] at h; cases h
    exact hres _ _ (runExit_closure P hrecv hdrain htick hxerr hcancel hissue hres _ _ _ _ h0 hu)
  case applyConfiguration ps p sched =>
    obtain ⟨⟨r, sc, u⟩, hu⟩ := runApply_isOk ps p sched s.opStart
    simp only [exec, execApplyConfiguration, hu, seqOut] at h
    split at h
    · cases h; exact hres _ _ (runApply_closure P hrecv hdrain htick hxerr hcancel hissue hres _ _ _ _ _ h0 hu)
    · cases h; exact hres _ _ h0

end

end Sys2Proof.Machine
end

