-- ==== Sys2Proof/Laws/Frames.lean ====
section
/-! SUPPORT. The frames of the build are windows EXTRACT validates, whatever follows them (30_encoding.md R71 to R75,
42_stream_synchronizer.md R146, R147). -/

namespace Sys2Proof.Machine

theorem u16std_bytesStd (c : Config) (n : Nat) (h : n < 65536) :
    ∃ a b, bytesStd c n = [a, b] ∧ u16std c a b = n := by
  unfold bytesStd u16std u16le u16be
  cases c.stdBigEndian
  · exact ⟨_, _, rfl, by simp [lo8, hi8]; omega⟩
  · exact ⟨_, _, rfl, by simp [lo8, hi8]; omega⟩

theorem u16le_bytesLe (n : Nat) (h : n < 65536) : u16le (lo8 n) (hi8 n) = n := by
  simp [u16le, lo8, hi8]; omega

theorem validated_tlmMinFrame {c : Config} (a : Byte) (b : Word16) : Validated c .min (tlmMinFrame a b) := by
  constructor <;> rfl

theorem validated_tlmStdFrame {c : Config} (hc : c.Wf) (a b : Byte) (m n : Word16) (s : Byte) (e : List Byte)
    (he : e.length = c.maxGates) : Validated c .std (tlmStdFrame c a b m n s e) := by
  have hG : 7 + c.maxGates < 65536 := by have := hc.cap_std; have := hc.cap_max; omega
  obtain ⟨l0, l1, hl, hL⟩ := u16std_bytesStd c (7 + e.length) (by omega)
  obtain ⟨m0, m1, hm, -⟩ := u16std_bytesStd c m.toNat m.isLt
  obtain ⟨n0, n1, hn, -⟩ := u16std_bytesStd c n.toNat n.isLt
  have hf : tlmStdFrame c a b m n s e =
      [byte 0xF4, byte 0xF3, byte 0xF2, byte 0xF1, l0, l1, a, b, m0, m1, n0, n1, s] ++ (e ++ markerBytes .stdEnd) := by
    simp [tlmStdFrame, hl, hm, hn, markerBytes]
  have hlen : (tlmStdFrame c a b m n s e).length = 17 + c.maxGates := by rw [hf]; simp [he, markerBytes]; omega
  constructor
  · rw [hf]; rfl
  · have e4 : byteAt (tlmStdFrame c a b m n s e) 4 = .ok l0 := by rw [hf]; rfl
    have e5 : byteAt (tlmStdFrame c a b m n s e) 5 = .ok l1 := by rw [hf]; rfl
    simp only [headerLength, hlen, e4, e5, bind, Except.bind]
    rw [if_neg (by omega), if_neg (by rw [hL, he]; simp), hL, he]
    congr 2; omega
  · simp only [tailOk, hlen, bind, Except.bind,
      memRead_eq_ok (m := tlmStdFrame c a b m n s e) (off := 17 + c.maxGates - 4) (n := 4) (by rw [hlen]; omega)]
    have : (tlmStdFrame c a b m n s e).drop (17 + c.maxGates - 4) = markerBytes .stdEnd := by
      rw [hf, ← he, ← List.append_assoc, List.drop_append_of_le_length (by simp; omega),
        List.drop_of_length_le (by simp; omega)]; rfl
    rw [this]; rfl

theorem cfgBody_length (cw : Word16) (p : List Byte) : (cfgBody cw p).length = 8 + p.length := by
  simp [cfgBody, markerBytes, bytesLe]; omega

theorem cfgBody_header (cw : Word16) (p tl : List Byte) :
    byteAt (cfgBody cw p ++ tl) 4 = .ok (lo8 (2 + p.length)) ∧
    byteAt (cfgBody cw p ++ tl) 5 = .ok (hi8 (2 + p.length)) ∧
    byteAt (cfgBody cw p ++ tl) 6 = .ok (lo8 cw.toNat) ∧ byteAt (cfgBody cw p ++ tl) 7 = .ok (hi8 cw.toNat) := by
  simp [cfgBody, markerBytes, bytesLe, byteAt]

theorem validated_cfgFrameMarker {c : Config} (hc : c.Wf) (ht : c.cfgTerm = .marker) (cw : Word16)
    (p : List Byte) (hp : 12 + p.length ≤ c.cap) : Validated c .cfg (cfgFrameMarker cw p) := by
  have hM := hc.cap_max
  have hlen : (cfgFrameMarker cw p).length = 12 + p.length := by
    simp [cfgFrameMarker, cfgBody_length, markerBytes]; omega
  obtain ⟨e4, e5, -, -⟩ := cfgBody_header cw p (markerBytes .cfgEnd)
  have hL := u16le_bytesLe (2 + p.length) (by omega)
  constructor
  · rfl
  · simp only [headerLength, hlen, bind, Except.bind]
    unfold cfgFrameMarker at *
    rw [if_neg (by omega), e4, e5]; simp only [hL, cfgTotal, ht]
    rw [if_neg (by omega)]; congr 2; omega
  · simp only [tailOk, ht, hlen, bind, Except.bind,
      memRead_eq_ok (m := cfgFrameMarker cw p) (off := 12 + p.length - 4) (n := 4) (by rw [hlen]; omega)]
    have : (cfgFrameMarker cw p).drop (12 + p.length - 4) = markerBytes .cfgEnd := by
      rw [cfgFrameMarker, show 12 + p.length - 4 = (cfgBody cw p).length by rw [cfgBody_length]; omega, List.drop_left]
    rw [this]; rfl

theorem validated_cfgFrameChecksum {c : Config} (hc : c.Wf) (ht : c.cfgTerm = .checksum) (cw : Word16)
    (p : List Byte) (hp : 9 + p.length ≤ c.cap) : Validated c .cfg (cfgFrameChecksum cw p) := by
  have hM := hc.cap_max
  have hlen : (cfgFrameChecksum cw p).length = 9 + p.length := by
    simp [cfgFrameChecksum, cfgBody_length]; omega
  obtain ⟨e4, e5, -, -⟩ := cfgBody_header cw p [checksumOf (cfgBody cw p)]
  have hL := u16le_bytesLe (2 + p.length) (by omega)
  constructor
  · rfl
  · simp only [headerLength, hlen, bind, Except.bind]
    unfold cfgFrameChecksum at *
    rw [if_neg (by omega), e4, e5]; simp only [hL, cfgTotal, ht]
    rw [if_neg (by omega)]; congr 2; omega
  · have h1 : memRead (cfgFrameChecksum cw p) 0 (9 + p.length - 1) = .ok (cfgBody cw p) := by
      rw [memRead_eq_ok (by omega), cfgFrameChecksum,
        show 9 + p.length - 1 = (cfgBody cw p).length by rw [cfgBody_length]; omega, List.drop_zero, List.take_left]
    have h2 : byteAt (cfgFrameChecksum cw p) (9 + p.length - 1) = .ok (checksumOf (cfgBody cw p)) := by
      rw [byteAt, cfgFrameChecksum, show 9 + p.length - 1 = (cfgBody cw p).length by rw [cfgBody_length]; omega]; simp
    simp only [tailOk, ht, hlen, h1, h2, bind, Except.bind]; simp

/-- The header of a validated window is read the same whatever follows it. -/
theorem headerLength_append {c : Config} {f : Family} {w rest : List Byte} (h : Validated c f w) :
    headerLength c f (w ++ rest) = .ok (.total w.length) := by
  have hge := headerLength_total_ge h.header
  have hh := h.header
  cases f with
  | min => exact hh
  | std =>
    have h9 := hge.2 (by decide)
    rw [← hh]
    simp only [headerLength, byteAt, List.length_append]
    rw [if_neg (by omega), if_neg (by omega), List.getElem?_append_left (by omega),
      List.getElem?_append_left (by omega)]
  | cfg =>
    have h9 := hge.2 (by decide)
    rw [← hh]
    simp only [headerLength, byteAt, List.length_append]
    rw [if_neg (by omega), if_neg (by omega), List.getElem?_append_left (by omega),
      List.getElem?_append_left (by omega)]

end Sys2Proof.Machine
end

