-- ==== Sys2Proof/Laws/Parse.lean ====
section
/-! SUPPORT. The decoder's readers: when each succeeds, and what it then has read; and the fields they assemble. -/

namespace Sys2Proof

open Machine

theorem bind_eq_ok {ε α β : Type} {x : Except ε α} {f : α → Except ε β} {r : β} :
    (x >>= f) = .ok r ↔ ∃ a, x = .ok a ∧ f a = .ok r := by
  cases x <;> simp [bind, Except.bind]

theorem takeN_eq_ok {n : Nat} {bs x r : List Byte} : takeN n bs = .ok (x, r) ↔ bs = x ++ r ∧ x.length = n := by
  unfold takeN
  split
  · rename_i h
    simp only [Except.ok.injEq, Prod.mk.injEq]
    constructor
    · rintro ⟨rfl, rfl⟩; simp [h]
    · rintro ⟨rfl, rfl⟩; simp
  · rename_i h
    constructor
    · intro h; cases h
    · rintro ⟨rfl, rfl⟩; simp at h

theorem takeByte_eq_ok {bs : List Byte} {x : Byte} {r : List Byte} : takeByte bs = .ok (x, r) ↔ bs = x :: r := by
  cases bs <;> simp [takeByte]

theorem word16_bytesLe (d : Word16) : word16 (u16le (lo8 d.toNat) (hi8 d.toNat)) = d := by
  apply BitVec.eq_of_toNat_eq
  have := d.isLt
  simp [word16, u16le, lo8, hi8]; omega

theorem takeWord_eq_ok {bs : List Byte} {w : Word16} {r : List Byte} :
    takeWord bs = .ok (w, r) ↔ bs = bytesLe w.toNat ++ r := by
  have e : ∀ a b : Byte, bytesLe (word16 (u16le a b)).toNat = [a, b] := by
    intro a b
    have := a.isLt; have := b.isLt
    simp only [bytesLe, word16, u16le, lo8, hi8, BitVec.toNat_ofNat, List.cons.injEq, and_true]
    constructor <;> apply BitVec.eq_of_toNat_eq <;> simp <;> omega
  unfold takeWord
  split
  · rename_i a b bs
    simp only [Except.ok.injEq, Prod.mk.injEq]
    constructor
    · rintro ⟨rfl, rfl⟩; rw [e]; rfl
    · intro h
      simp only [bytesLe, List.cons_append, List.nil_append, List.cons.injEq] at h
      obtain ⟨rfl, rfl, rfl⟩ := h
      exact ⟨word16_bytesLe w, rfl⟩
  · rename_i h
    constructor
    · intro h; cases h
    · intro h'; exact absurd h' (by intro h'; exact h _ _ _ h')

theorem takeBit_eq_ok {bs : List Byte} {x : Bool} {r : List Byte} :
    takeBit bs = .ok (x, r) ↔ bs = bitByte x :: r := by
  unfold takeBit
  rw [bind_eq_ok]
  constructor
  · rintro ⟨⟨b, bs'⟩, h1, h2⟩
    rw [takeByte_eq_ok] at h1; subst h1
    simp only at h2
    split at h2
    · rename_i h; cases h2; subst h; rfl
    · split at h2
      · rename_i h; cases h2; subst h; rfl
      · cases h2
  · rintro rfl
    exact ⟨(bitByte x, r), rfl, by cases x <;> rfl⟩

theorem expect_eq_ok {m bs r : List Byte} : expect m bs = .ok r ↔ bs = m ++ r := by
  unfold expect
  rw [bind_eq_ok]
  constructor
  · rintro ⟨⟨x, r'⟩, h1, h2⟩
    rw [takeN_eq_ok] at h1
    simp only at h2
    split at h2
    · rename_i h; cases h2; subst h; exact h1.1
    · cases h2
  · rintro rfl
    exact ⟨(m, r), takeN_eq_ok.mpr ⟨rfl, rfl⟩, by simp⟩

theorem takeStd_eq_ok {c : Config} {bs : List Byte} {n : Nat} {r : List Byte} (hn : n < 65536) :
    takeStd c bs = .ok (n, r) ↔ bs = bytesStd c n ++ r := by
  have e : ∀ a b : Byte, bytesStd c (u16std c a b) = [a, b] := by
    intro a b
    have := a.isLt; have := b.isLt
    unfold bytesStd u16std u16le u16be
    cases c.stdBigEndian <;> simp [lo8, hi8] <;> constructor <;> apply BitVec.eq_of_toNat_eq <;> simp <;> omega
  have e2 : ∀ a b : Byte, bytesStd c n = [a,b] → u16std c a b = n := by
    intro a b
    unfold bytesStd u16std u16le u16be
    cases c.stdBigEndian <;> simp [lo8, hi8] <;> rintro rfl rfl <;> simp <;> omega
  unfold takeStd
  split
  · rename_i a b bs
    simp only [Except.ok.injEq, Prod.mk.injEq]
    constructor
    · rintro ⟨rfl, rfl⟩; rw [e]; rfl
    · intro h
      have h1 : bytesStd c n = [a, b] ∧ bs = r := by
        unfold bytesStd at h ⊢
        split at h <;> simp_all
      exact ⟨e2 _ _ h1.1, h1.2⟩
  · rename_i h
    constructor
    · intro h; cases h
    · intro h'
      exfalso
      unfold bytesStd at h'
      split at h' <;> exact h _ _ _ h'

theorem takeStd_lt {c : Config} {bs : List Byte} {n : Nat} {r : List Byte} :
    takeStd c bs = .ok (n, r) → n < 65536 := by
  unfold takeStd
  split
  · rename_i a b bs
    intro h; cases h
    have := a.isLt; have := b.isLt
    unfold u16std u16le u16be; split <;> omega
  · intro h; cases h

theorem leValue_bytes32 (n : List Byte) (h : n.length = 4) : leValue n < 2^32 ∧ bytes32 (leValue n) = n := by
  match n, h with
  | [a,b,c,d], _ =>
    have := a.isLt; have := b.isLt; have := c.isLt; have := d.isLt
    simp only [leValue, bytes32]
    constructor
    · omega
    · simp only [List.cons.injEq, and_true]
      refine ⟨?_, ?_, ?_, ?_⟩ <;> apply BitVec.eq_of_toNat_eq <;> simp <;> omega

theorem bytes32_leValue (n : Nat) (h : n < 2^32) : leValue (bytes32 n) = n := by
  simp [leValue, bytes32]; omega

end Sys2Proof
end

