-- ==== Sys2Proof/Laws/PerInstr.lean ====
section
/-! SUPPORT. Per instruction: which rows have a bit pattern (30_encoding.md R88). -/

namespace Sys2Proof.Laws

/-- The instruction has bytes exactly where its row has a pattern: frames, operations and commands have one,
micro-operations and host sequences none. -/
def EncodedRows.Statement (i : Instr) : Prop :=
  ∀ c : Config, (encode c i).isSome = (decide (i.format ≠ .micro) && decide (i.format ≠ .pseudo))

theorem EncodedRows.tlmMin : ∀ x0 x1, EncodedRows.Statement (.tlmMin x0 x1) :=
  fun _ _ _ => rfl
theorem EncodedRows.tlmStd : ∀ x0 x1 x2 x3 x4 x5, EncodedRows.Statement (.tlmStd x0 x1 x2 x3 x4 x5) :=
  fun _ _ _ _ _ _ _ => rfl
theorem EncodedRows.cfgFrame : ∀ x0 x1, EncodedRows.Statement (.cfgFrame x0 x1) :=
  fun _ _ _ => rfl
theorem EncodedRows.cfgFrameCk : ∀ x0 x1, EncodedRows.Statement (.cfgFrameCk x0 x1) :=
  fun _ _ _ => rfl
theorem EncodedRows.nop : EncodedRows.Statement .nop := fun _ => rfl
theorem EncodedRows.rx : ∀ x0, EncodedRows.Statement (.rx x0) :=
  fun _ _ => rfl
theorem EncodedRows.tick : EncodedRows.Statement .tick := fun _ => rfl
theorem EncodedRows.xerr : EncodedRows.Statement .xerr := fun _ => rfl
theorem EncodedRows.issue : ∀ x0 x1 x2 x3 x4, EncodedRows.Statement (.issue x0 x1 x2 x3 x4) :=
  fun _ _ _ _ _ _ => rfl
theorem EncodedRows.poll : EncodedRows.Statement .poll := fun _ => rfl
theorem EncodedRows.cancel : EncodedRows.Statement .cancel := fun _ => rfl
theorem EncodedRows.setTfam : ∀ x0, EncodedRows.Statement (.setTfam x0) :=
  fun _ _ => rfl
theorem EncodedRows.reservedOp : ∀ x0, EncodedRows.Statement (.reservedOp x0) :=
  fun _ _ => rfl
theorem EncodedRows.reset : EncodedRows.Statement .reset := fun _ => rfl
theorem EncodedRows.feed : ∀ x0, EncodedRows.Statement (.feed x0) :=
  fun _ _ => rfl
theorem EncodedRows.extract : EncodedRows.Statement .extract := fun _ => rfl
theorem EncodedRows.drain : EncodedRows.Statement .drain := fun _ => rfl
theorem EncodedRows.handleCfg : ∀ x0, EncodedRows.Statement (.handleCfg x0) :=
  fun _ _ => rfl
theorem EncodedRows.encode : ∀ x0 x1, EncodedRows.Statement (.encode x0 x1) :=
  fun _ _ _ => rfl
theorem EncodedRows.checksum : ∀ x0, EncodedRows.Statement (.checksum x0) :=
  fun _ _ => rfl
theorem EncodedRows.matchMarker : ∀ x0 x1 x2, EncodedRows.Statement (.matchMarker x0 x1 x2) :=
  fun _ _ _ _ => rfl
theorem EncodedRows.decodeMin : ∀ x0, EncodedRows.Statement (.decodeMin x0) :=
  fun _ _ => rfl
theorem EncodedRows.decodeStd : ∀ x0, EncodedRows.Statement (.decodeStd x0) :=
  fun _ _ => rfl
theorem EncodedRows.family : EncodedRows.Statement .family := fun _ => rfl
theorem EncodedRows.presence : ∀ x0, EncodedRows.Statement (.presence x0) :=
  fun _ _ => rfl
theorem EncodedRows.enterConfig : ∀ x0, EncodedRows.Statement (.enterConfig x0) :=
  fun _ _ => rfl
theorem EncodedRows.exitConfig : ∀ x0, EncodedRows.Statement (.exitConfig x0) :=
  fun _ _ => rfl
theorem EncodedRows.readFirmware : ∀ x0, EncodedRows.Statement (.readFirmware x0) :=
  fun _ _ => rfl
theorem EncodedRows.writeSerial : ∀ x0, EncodedRows.Statement (.writeSerial x0) :=
  fun _ _ => rfl
theorem EncodedRows.readSerial : ∀ x0, EncodedRows.Statement (.readSerial x0) :=
  fun _ _ => rfl
theorem EncodedRows.writeParams : ∀ x0, EncodedRows.Statement (.writeParams x0) :=
  fun _ _ => rfl
theorem EncodedRows.readParams : ∀ x0, EncodedRows.Statement (.readParams x0) :=
  fun _ _ => rfl
theorem EncodedRows.writeTrigger : ∀ x0, EncodedRows.Statement (.writeTrigger x0) :=
  fun _ _ => rfl
theorem EncodedRows.readTrigger : ∀ x0, EncodedRows.Statement (.readTrigger x0) :=
  fun _ _ => rfl
theorem EncodedRows.writeHold : ∀ x0, EncodedRows.Statement (.writeHold x0) :=
  fun _ _ => rfl
theorem EncodedRows.readHold : ∀ x0, EncodedRows.Statement (.readHold x0) :=
  fun _ _ => rfl
theorem EncodedRows.autoThreshold : ∀ x0, EncodedRows.Statement (.autoThreshold x0) :=
  fun _ _ => rfl
theorem EncodedRows.switchOutput : ∀ x0, EncodedRows.Statement (.switchOutput x0) :=
  fun _ _ => rfl
theorem EncodedRows.enterConfiguration : ∀ x0 x1, EncodedRows.Statement (.enterConfiguration x0 x1) :=
  fun _ _ _ => rfl
theorem EncodedRows.exitConfiguration : ∀ x0 x1, EncodedRows.Statement (.exitConfiguration x0 x1) :=
  fun _ _ _ => rfl
theorem EncodedRows.applyConfiguration : ∀ x0 x1 x2, EncodedRows.Statement (.applyConfiguration x0 x1 x2) :=
  fun _ _ _ _ => rfl

end Sys2Proof.Laws
end

