-- ==== Sys2Proof/Laws/Windows.lean ====
section
/-! SUPPORT. The windows EXTRACT validates are exactly bytes of frames of the build: the other direction of
Laws/Frames.lean (30_encoding.md R71 to R75, 42_stream_synchronizer.md R146, R147). -/

namespace Sys2Proof.Machine

theorem word16_u16le_toNat (a b : Byte) : (word16 (u16le a b)).toNat = u16le a b := by
  have := a.isLt; have := b.isLt
  simp [word16, u16le]; omega

theorem bytesLe_u16le (a b : Byte) : bytesLe (u16le a b) = [a, b] := by
  have h := (takeWord_eq_ok (bs := [a, b]) (w := word16 (u16le a b)) (r := [])).mp rfl
  rw [word16_u16le_toNat] at h
  simpa using h.symm

theorem u16std_lt (c : Config) (a b : Byte) : u16std c a b < 65536 := takeStd_lt (bs := [a, b]) (r := []) rfl

theorem bytesStd_u16std (c : Config) (a b : Byte) : bytesStd c (u16std c a b) = [a, b] := by
  have h := (takeStd_eq_ok (bs := [a, b]) (r := []) (u16std_lt c a b)).mp rfl
  simpa using h.symm

theorem word16_u16std_toNat (c : Config) (a b : Byte) : (word16 (u16std c a b)).toNat = u16std c a b := by
  have := u16std_lt c a b
  simp [word16]; omega

/-- A 4-byte tail that is the marker `m` ends the window. -/
theorem tail_of_test {w m : List Byte} (h4 : 4 ≤ w.length)
    (h : (do let t ← memRead w (w.length - 4) 4; .ok (decide (t = m)) : Except Fault Bool) = .ok true) :
    w.drop (w.length - 4) = m := by
  rw [memRead_eq_ok (by omega)] at h
  simp only [bind, Except.bind, Except.ok.injEq, decide_eq_true_eq] at h
  rwa [List.take_of_length_le (by simp; omega)] at h

theorem thirteen_bytes (w : List Byte) (h : 13 ≤ w.length) :
    ∃ a0 a1 a2 a3 a4 a5 a6 a7 a8 a9 a10 a11 a12 rest,
      w = a0 :: a1 :: a2 :: a3 :: a4 :: a5 :: a6 :: a7 :: a8 :: a9 :: a10 :: a11 :: a12 :: rest := by
  match w, h with
  | a0 :: a1 :: a2 :: a3 :: a4 :: a5 :: a6 :: a7 :: a8 :: a9 :: a10 :: a11 :: a12 :: rest, _ =>
    exact ⟨_, _, _, _, _, _, _, _, _, _, _, _, _, _, rfl⟩

/-- A validated minimal window is a minimal frame. -/
theorem validated_min_bytes {c : Config} {w : List Byte} (h : Validated c .min w) :
    ∃ st d, w = tlmMinFrame st d := by
  obtain ⟨st, lo, hi, rfl⟩ := validated_min h
  exact ⟨st, word16 (u16le lo hi), by simp [tlmMinFrame, word16_u16le_toNat, bytesLe_u16le, markerBytes]⟩

/-- A validated standard window is a standard frame with one energy byte per gate. -/
theorem validated_std_bytes {c : Config} {w : List Byte} (h : Validated c .std w) :
    ∃ ft st mov sta res e, e.length = c.maxGates ∧ w = tlmStdFrame c ft st mov sta res e := by
  have hl := validated_length_std h
  rcases headerLength_total h.header with ⟨h, -⟩ | ⟨-, -, -, a, b, ha, hb, hL⟩ | ⟨h, -⟩
  · cases h
  · obtain ⟨hs, hh, ht⟩ := h
    have ht4 := tail_of_test (by omega) ht
    obtain ⟨a0, a1, a2, a3, a4, a5, a6, a7, a8, a9, a10, a11, a12, rest, rfl⟩ := thirteen_bytes w (by omega)
    have hrl : rest.length = 4 + c.maxGates := by simp at hl; omega
    simp at ha hb; subst ha; subst hb
    have hs' : [a0, a1, a2, a3] = markerBytes .stdStart := hs
    have htl : rest.drop c.maxGates = markerBytes .stdEnd := by
      rw [hl, show 17 + c.maxGates - 4 = c.maxGates + 13 by omega] at ht4
      simpa only [List.drop_succ_cons] using ht4
    have hrest : rest = rest.take c.maxGates ++ markerBytes .stdEnd := by rw [← htl, List.take_append_drop]
    have hel : (rest.take c.maxGates).length = c.maxGates := by simp; omega
    have hL' : bytesStd c (7 + (rest.take c.maxGates).length) = [a4, a5] := by rw [hel, ← hL, bytesStd_u16std]
    refine ⟨a6, a7, word16 (u16std c a8 a9), word16 (u16std c a10 a11), a12, rest.take c.maxGates, hel, ?_⟩
    conv_lhs => rw [hrest]
    simp only [tlmStdFrame, hL', word16_u16std_toNat, bytesStd_u16std, ← hs']
    simp
  · cases h

/-- A validated configuration window is a configuration frame of the build. -/
theorem validated_cfg_bytes {c : Config} {w : List Byte} (h : Validated c .cfg w) :
    ∃ cw p, (c.cfgTerm = .marker ∧ 12 + p.length ≤ c.cap ∧ w = cfgFrameMarker cw p) ∨
      (c.cfgTerm = .checksum ∧ 9 + p.length ≤ c.cap ∧ w = cfgFrameChecksum cw p) := by
  obtain ⟨hs, hh, ht⟩ := h
  rcases headerLength_total hh with ⟨h, -⟩ | ⟨h, -⟩ | ⟨-, hl, hcap, a, b, ha, hb, hL, hT⟩
  · cases h
  · cases h
  · have hw8 : 8 ≤ w.length := by rw [hT]; unfold cfgTotal; cases c.cfgTerm <;> simp only <;> omega
    match w, hw8 with
    | a0 :: a1 :: a2 :: a3 :: a4 :: a5 :: c0 :: c1 :: rest, _ =>
      simp at ha hb; subst ha; subst hb
      have hs' : [a0, a1, a2, a3] = markerBytes .cfgStart := hs
      have hcapL : cfgTotal c (u16le a4 a5) ≤ c.cap := hT ▸ hcap
      have hpl : ∀ k, rest.length = u16le a4 a5 - 2 + k → (rest.take (u16le a4 a5 - 2)).length = u16le a4 a5 - 2 := by
        intro k hk; simp; omega
      have hbody : ∀ p, p.length = u16le a4 a5 - 2 →
          [a0, a1, a2, a3, a4, a5, c0, c1] ++ p = cfgBody (word16 (u16le c0 c1)) p := by
        intro p hp
        have hb : bytesLe (2 + p.length) = [a4, a5] := by
          rw [hp, show 2 + (u16le a4 a5 - 2) = u16le a4 a5 by omega, bytesLe_u16le]
        simp only [cfgBody, hb, word16_u16le_toNat, bytesLe_u16le, ← hs']; simp
      cases hterm : c.cfgTerm with
      | marker =>
        have hT' : rest.length = u16le a4 a5 - 2 + 4 := by simp [cfgTotal, hterm] at hT; omega
        have htl : rest.drop (u16le a4 a5 - 2) = markerBytes .cfgEnd := by
          have ht4 := tail_of_test (w := a0 :: a1 :: a2 :: a3 :: a4 :: a5 :: c0 :: c1 :: rest) (m := markerBytes .cfgEnd)
            (by simp only [List.length_cons]; omega) (by simpa only [tailOk, hterm] using ht)
          rw [show (a0 :: a1 :: a2 :: a3 :: a4 :: a5 :: c0 :: c1 :: rest).length - 4 = (u16le a4 a5 - 2) + 8 by
            simp; omega] at ht4
          simpa only [List.drop_succ_cons] using ht4
        refine ⟨word16 (u16le c0 c1), rest.take (u16le a4 a5 - 2), .inl ⟨rfl, ?_, ?_⟩⟩
        · simp only [cfgTotal, hterm] at hcapL; rw [hpl 4 hT']; omega
        · rw [cfgFrameMarker, ← hbody _ (hpl 4 hT'), ← htl, List.append_assoc, List.take_append_drop]; rfl
      | checksum =>
        have hT' : rest.length = u16le a4 a5 - 2 + 1 := by simp [cfgTotal, hterm] at hT; omega
        obtain ⟨k, hk⟩ : ∃ k, rest.drop (u16le a4 a5 - 2) = [k] := List.length_eq_one_iff.mp (by simp; omega)
        have hw : a0 :: a1 :: a2 :: a3 :: a4 :: a5 :: c0 :: c1 :: rest =
            cfgBody (word16 (u16le c0 c1)) (rest.take (u16le a4 a5 - 2)) ++ [k] := by
          rw [← hbody _ (hpl 1 hT'), ← hk, List.append_assoc, List.take_append_drop]; rfl
        refine ⟨word16 (u16le c0 c1), rest.take (u16le a4 a5 - 2), .inr ⟨rfl, ?_, ?_⟩⟩
        · simp only [cfgTotal, hterm] at hcapL; rw [hpl 1 hT']; omega
        · rw [hw] at ht ⊢
          simp only [tailOk, hterm, bind, Except.bind] at ht
          rw [List.length_append, List.length_singleton, Nat.add_sub_cancel, memRead_eq_ok (by simp)] at ht
          simp [byteAt] at ht
          rw [cfgFrameChecksum, ← ht]

end Sys2Proof.Machine
end

