-- ==== Sys2Proof/Tests/Slice0.lean ====
section
/-! SUPPORT. Tests: the well-formedness checks, words written out from the spec's encodings, the worked vectors of
95_test_vectors.md one operation at a time, and a witness for the hypotheses of every statement. -/

namespace Sys2Proof.Tests

open Sys2Proof.Machine Sys2Proof.Spec

/-! ### Builds and states -/

/-- The build with checksum-terminated configuration frames. -/
def ck : Config := { Config.default with cfgTerm := .checksum }

/-- The build with big-endian standard frames. -/
def be : Config := { Config.default with stdBigEndian := true }

/-- The build with 9 gates. -/
def nine : Config := { Config.default with maxGates := 9 }

/-- The build with the other presence rule. -/
def ne0 : Config := { Config.default with presenceRule := .ne0 }

/-- A build with a short timeout and two attempts. -/
def brief : Config := { Config.default with timeoutTicks := 2, nAttempts := 2 }

/-- A build that sends payloads of at most 4 bytes. -/
def narrow : Config := { Config.default with txPayloadMax := 4 }

theorem default_wf : Config.default.Wf := by constructor <;> decide
theorem ck_wf : ck.Wf := by constructor <;> decide
theorem be_wf : be.Wf := by constructor <;> decide
theorem nine_wf : nine.Wf := by constructor <;> decide
theorem brief_wf : brief.Wf := by constructor <;> decide
theorem narrow_wf : narrow.Wf := by constructor <;> decide

/-- Streaming, with this buffer. -/
def streaming (buf : List Byte) : State := { State.reset with buf := buf }

/-- Configuring with no command pending, with this buffer. -/
def configuring (buf : List Byte) : State := { State.reset with buf := buf, sess := .configuring }

/-- ENTER_CONFIG is pending, `n` ticks before its timeout. -/
def pending (n : Nat) (buf : List Byte) : State :=
  { State.reset with
    buf := buf, sess := .awaitingAck, hs := .sent, tmoCnt := n
    pClass := .enter, pCw := 0x00FF, pExpect := 0x01FF, pChk := true }

/-- The command ended with this reason. -/
def failed (r : FailReason) : State := { State.reset with hs := .failed, failReason := r, pCw := 0x00FF, pExpect := 0x01FF }

/-- The command was acknowledged with this payload. -/
def acked (payload : List Byte) : State :=
  { State.reset with
    sess := .configuring, hs := .acked, pClass := .enter, pCw := 0x00FF, pExpect := 0x01FF
    rpCw := 0x01FF, rpLen := payload.length, rpPayload := payload }

/-- The state after an outcome. -/
def stateOf : Out → Option State
  | .next t => some t
  | .fault _ => none
  | .refused _ => none

/-- The events of an outcome. -/
def eventsOf : Out → List Event
  | .next t => t.events
  | .fault _ => []
  | .refused _ => []

/-- The result of an outcome. -/
def resultOf : Out → OpResult
  | .next t => t.result
  | .fault _ => .none
  | .refused _ => .none

/-- Buffer and ghost position of an outcome. -/
def bufOf : Out → List Byte × Nat
  | .next t => (t.buf, t.pos)
  | .fault _ => ([], 0)
  | .refused _ => ([], 0)

/-- Session, handler state and fail reason of an outcome. -/
def ctlOf : Out → Option (Sess × Hs × FailReason)
  | .next t => some (t.sess, t.hs, t.failReason)
  | .fault _ => none
  | .refused _ => none

/-- 95_test_vectors.md, `STD1`. -/
def std1 : List Byte :=
  [0xF4, 0xF3, 0xF2, 0xF1, 0x17, 0x00, 0x01, 0x03, 0x64, 0x00, 0x96, 0x00, 0x00, 0x0A, 0x14, 0x1E, 0x28, 0x32, 0x3C,
   0x46, 0x50, 0x5A, 0x64, 0x00, 0x00, 0x00, 0x00, 0x00, 0x00, 0xF8, 0xF7, 0xF6, 0xF5]

/-- The record of `STD1` (95_test_vectors.md V-D9). -/
def std1Record : TlmStd where
  frameType := 1
  state := 3
  presence := true
  movingCm := 100
  stationaryCm := 150
  reserved := 0
  energy := [10, 20, 30, 40, 50, 60, 70, 80, 90, 100, 0, 0, 0, 0, 0, 0]

/-- 95_test_vectors.md, `ACK_ENTER`. -/
def ackEnter : List Byte :=
  [0xFD, 0xFC, 0xFB, 0xFA, 0x08, 0x00, 0xFF, 0x01, 0x00, 0x00, 0x01, 0x00, 0x40, 0x00, 0x04, 0x03, 0x02, 0x01]

/-- 95_test_vectors.md, `ACK_EXIT`. -/
def ackExit : List Byte := [0xFD, 0xFC, 0xFB, 0xFA, 0x04, 0x00, 0xFE, 0x01, 0x00, 0x00, 0x04, 0x03, 0x02, 0x01]

/-- 95_test_vectors.md V-C1. -/
def enterFrame : List Byte := [0xFD, 0xFC, 0xFB, 0xFA, 0x04, 0x00, 0xFF, 0x00, 0x01, 0x00, 0x04, 0x03, 0x02, 0x01]

/-! ### Well-formedness: each check refuses something -/

theorem test_wf_std_gates : (Instr.tlmStd 1 3 100 150 0 [1, 2, 3]).wellFormed Config.default = false := by decide
theorem test_wf_cfg_term : (Instr.cfgFrame 0x01FF []).wellFormed ck = false := by decide
theorem test_wf_cfg_room : (Instr.cfgFrame 0x01FF (List.replicate 245 0)).wellFormed Config.default = false := by decide +kernel
theorem test_wf_cfg_fits : (Instr.cfgFrame 0x01FF (List.replicate 244 0)).wellFormed Config.default = true := by decide +kernel
theorem test_wf_ck_term : (Instr.cfgFrameCk 0x01FF []).wellFormed Config.default = false := by decide
theorem test_wf_ck_room : (Instr.cfgFrameCk 0x01FF (List.replicate 248 0)).wellFormed ck = false := by decide +kernel
theorem test_wf_payload (p : List Byte) (h : p.length = 2 ^ 32) : (Instr.issue 1 0xFF 0x1FF true p).wellFormed Config.default = false := by
  simp [Instr.wellFormed, payloadFits, h]
theorem test_wf_command (p : List Byte) (h : p.length = 2 ^ 32) : (Instr.enterConfig p).wellFormed Config.default = false := by
  simp [Instr.wellFormed, payloadFits, h]
theorem test_wf_reserved_low : (Instr.reservedOp 7).wellFormed Config.default = false := by decide
theorem test_wf_reserved_high : (Instr.reservedOp 15).wellFormed Config.default = false := by decide
theorem test_wf_handle_length : (Instr.handleCfg (ackExit.take 13)).wellFormed Config.default = false := by decide
theorem test_wf_handle_field : (Instr.handleCfg [0xFD, 0xFC, 0xFB, 0xFA, 1, 0, 0, 0, 4, 3, 2]).wellFormed Config.default = false := by decide
theorem test_wf_handle_ok : (Instr.handleCfg ackExit).wellFormed Config.default = true := by decide
theorem test_wf_min_window : (Instr.decodeMin [0x6E, 2, 0x64, 0]).wellFormed Config.default = false := by decide
theorem test_wf_std_window : (Instr.decodeStd (std1.take 32)).wellFormed Config.default = false := by decide

/-! ### Words written out (codes: 30_encoding.md R81; frames: R71 to R75; operand layout: log entry 3) -/

theorem test_decode_nop : decode Config.default [0x00] = .ok (.nop, []) := by decide
theorem test_decode_rx : decode Config.default [0x01, 0x6E, 0x02] = .ok (.rx 0x6E, [0x02]) := by decide
theorem test_decode_tick : decode Config.default [0x02] = .ok (.tick, []) := by decide
theorem test_decode_xerr : decode Config.default [0x03] = .ok (.xerr, []) := by decide
theorem test_decode_issue : decode Config.default [0x04, 0x02, 0xFE, 0x00, 0xFE, 0x01, 0x00, 0x01, 0x00, 0x00, 0x00, 0x7A] =
    .ok (.issue 2 0x00FE 0x01FE false [0x7A], []) := by decide
theorem test_decode_poll : decode Config.default [0x05] = .ok (.poll, []) := by decide
theorem test_decode_cancel : decode Config.default [0x06] = .ok (.cancel, []) := by decide
theorem test_decode_setTfam_min : decode Config.default [0x07, 0x00] = .ok (.setTfam .min, []) := by decide
theorem test_decode_setTfam_std : decode Config.default [0x07, 0x01] = .ok (.setTfam .std, []) := by decide
theorem test_decode_reserved_low : decode Config.default [0x08] = .ok (.reservedOp 8, []) := by decide
theorem test_decode_reserved_high : decode Config.default [0x0E] = .ok (.reservedOp 14, []) := by decide
theorem test_decode_reset : decode Config.default [0x0F] = .ok (.reset, []) := by decide
theorem test_decode_tlmMin : decode Config.default [0x6E, 0x02, 0x2C, 0x01, 0x62] = .ok (.tlmMin 2 300, []) := by decide
theorem test_decode_tlmStd : decode Config.default std1 =
    .ok (.tlmStd 1 3 100 150 0 [10, 20, 30, 40, 50, 60, 70, 80, 90, 100, 0, 0, 0, 0, 0, 0], []) := by decide
/-- 95_test_vectors.md V-D10. -/
theorem test_decode_tlmStd_be : decode be
    [0xF4, 0xF3, 0xF2, 0xF1, 0x00, 0x17, 0x01, 0x03, 0x00, 0x64, 0x00, 0x96, 0x00, 0x0A, 0x14, 0x1E, 0x28, 0x32, 0x3C,
     0x46, 0x50, 0x5A, 0x64, 0x00, 0x00, 0x00, 0x00, 0x00, 0x00, 0xF8, 0xF7, 0xF6, 0xF5] =
    .ok (.tlmStd 1 3 100 150 0 [10, 20, 30, 40, 50, 60, 70, 80, 90, 100, 0, 0, 0, 0, 0, 0], []) := by decide
/-- 95_test_vectors.md V-D12. -/
theorem test_decode_tlmStd_nine : decode nine
    [0xF4, 0xF3, 0xF2, 0xF1, 0x10, 0x00, 0x01, 0x02, 0x00, 0x00, 0x2C, 0x01, 0x00, 1, 2, 3, 4, 5, 6, 7, 8, 9, 0xF8,
     0xF7, 0xF6, 0xF5] = .ok (.tlmStd 1 2 0 300 0 [1, 2, 3, 4, 5, 6, 7, 8, 9], []) := by decide
theorem test_decode_cfgFrame : decode Config.default ackEnter = .ok (.cfgFrame 0x01FF [0, 0, 1, 0, 0x40, 0], []) := by decide
/-- 95_test_vectors.md V-K15. -/
theorem test_decode_cfgFrameCk : decode ck [0xFD, 0xFC, 0xFB, 0xFA, 0x04, 0x00, 0xFF, 0x01, 0x00, 0x00, 0xF2] =
    .ok (.cfgFrameCk 0x01FF [0, 0], []) := by decide
theorem test_decode_badChecksum : decode ck [0xFD, 0xFC, 0xFB, 0xFA, 0x04, 0x00, 0xFF, 0x01, 0x00, 0x00, 0xF3] =
    .error .badChecksum := by decide
theorem test_decode_unknown : decode Config.default [0x62] = .error (.unknownCode 0x62) := by decide
theorem test_decode_badClass : decode Config.default [0x04, 0x04, 0, 0, 0, 0, 0, 0, 0, 0, 0] = .error .badOperand := by decide
theorem test_decode_badLength : decode Config.default [0xFD, 0xFC, 0xFB, 0xFA, 0xF7, 0x00] = .error .badLength := by decide
theorem test_decode_truncated : decode Config.default [0x01] = .error .truncated := by decide

/-- The 13 commands: class, default word, reply word and chk of 30_encoding.md R86 and R87. -/
theorem test_encode_commands :
    [encode Config.default (.enterConfig [1, 0]), encode Config.default (.exitConfig []),
     encode Config.default (.readFirmware []), encode Config.default (.writeSerial []),
     encode Config.default (.readSerial []), encode Config.default (.writeParams []),
     encode Config.default (.readParams []), encode Config.default (.writeTrigger []),
     encode Config.default (.readTrigger []), encode Config.default (.writeHold []),
     encode Config.default (.readHold []), encode Config.default (.autoThreshold []),
     encode Config.default (.switchOutput [])] =
    [some [4, 1, 0xFF, 0, 0xFF, 1, 1, 2, 0, 0, 0, 1, 0], some [4, 2, 0xFE, 0, 0xFE, 1, 1, 0, 0, 0, 0],
     some [4, 0, 0x00, 0, 0x00, 1, 0, 0, 0, 0, 0], some [4, 0, 0x10, 0, 0x10, 1, 1, 0, 0, 0, 0],
     some [4, 0, 0x11, 0, 0x11, 1, 0, 0, 0, 0, 0], some [4, 0, 0x70, 0, 0x70, 1, 1, 0, 0, 0, 0],
     some [4, 0, 0x71, 0, 0x71, 1, 0, 0, 0, 0, 0], some [4, 0, 0x72, 0, 0x72, 1, 1, 0, 0, 0, 0],
     some [4, 0, 0x73, 0, 0x73, 1, 0, 0, 0, 0, 0], some [4, 0, 0x76, 0, 0x76, 1, 1, 0, 0, 0, 0],
     some [4, 0, 0x77, 0, 0x77, 1, 0, 0, 0, 0, 0], some [4, 0, 0x09, 0, 0x09, 1, 1, 0, 0, 0, 0],
     some [4, 0, 0x7A, 0, 0x7A, 1, 1, 0, 0, 0, 0]] := by decide

/-- Table words: a 4-bit code, and the 40 bits of the minimal frame, its first byte lowest. -/
theorem test_table_codes : (List.range 16).map (decodeTableWord 4) =
    [some .nop, some (.rx 0), some .tick, some .xerr, some (.issue 0 0 0 false []), some .poll, some .cancel,
     some (.setTfam .min), some (.reservedOp 8), some (.reservedOp 9), some (.reservedOp 10), some (.reservedOp 11),
     some (.reservedOp 12), some (.reservedOp 13), some (.reservedOp 14), some .reset] := by decide +kernel
theorem test_table_tlmMin : decodeTableWord 40 0x620064026E = some (.tlmMin 2 100) := by decide +kernel
theorem test_table_step : stateOf (step (State.reset.withFetchWord 40 0x620064026E)) =
    some { State.reset with
      pos := 5, events := [.tlmMin { state := 2, presence := true, distanceCm := 100 }] } := by decide +kernel
theorem test_table_step_issue : ctlOf (step (State.reset.withFetchWord 4 4)) = some (.awaitingAck, .sent, .none) := by
  decide +kernel

/-! ### The code numbers -/

theorem test_codes :
    [Sess.streaming, .awaitingAck, .configuring].map sessCode = [0, 1, 2] ∧
    [Hs.idle, .sent, .acked, .failed].map hsCode = [0, 1, 2, 3] ∧
    [FailReason.none, .timeout, .rejected, .transport].map failReasonCode = [0, 1, 2, 3] ∧
    [CmdClass.other, .enter, .exit].map classCode = [0, 1, 2] ∧ [Tfam.min, .std].map tfamCode = [0, 1] ∧
    [PollStatus.idle, .pending, .acked, .timedOut, .rejected, .transport].map pollStatusCode = [0, 1, 2, 3, 4, 5] ∧
    [DiagCode.formatError, .checksumError, .invalidReply, .overflow].map diagCode = [1, 2, 3, 10] ∧
    [ErrorKind.formatError, .checksumError, .invalidReply, .commandTimeout, .invalidArgument, .transportError, .busy,
     .rejected 0 [], .illegalOp].map errorCode = [1, 2, 3, 4, 5, 6, 7, 8, 9] := by decide

/-! ### One step of each instruction (95_test_vectors.md) -/

/-- V-C1. -/
theorem test_step_encode : resultOf (exec (.encode 0x00FF [1, 0]) State.reset) = .bytes enterFrame := by decide
/-- V-C11. -/
theorem test_step_encode_ck : resultOf (exec (.encode 0x00FF [1, 0]) (State.resetWith ck)) =
    .bytes [0xFD, 0xFC, 0xFB, 0xFA, 0x04, 0x00, 0xFF, 0x00, 0x01, 0x00, 0xF2] := by decide
/-- V-C8. -/
theorem test_step_checksum : resultOf (exec (.checksum (enterFrame.take 10)) State.reset) = .byte 0xF2 := by decide
/-- V-C10. -/
theorem test_step_checksum_wraps : resultOf (exec (.checksum [0xFF, 0xFF]) State.reset) = .byte 0xFE := by decide
/-- V-C12. -/
theorem test_step_match : resultOf (exec (.matchMarker [0, 0xFD, 0xFC, 0xFB, 0xFA] 1 .cfgStart) State.reset) = .bit true := by decide
/-- V-C13. -/
theorem test_step_match_end : resultOf (exec (.matchMarker [0, 0xFD, 0xFC, 0xFB] 1 .cfgStart) State.reset) = .bit false := by decide
/-- V-D2, under either presence rule. -/
theorem test_step_decodeMin :
    resultOf (exec (.decodeMin [0x6E, 1, 0x64, 0, 0x62]) State.reset) = .tlmMin ⟨1, false, 100⟩ ∧
    resultOf (exec (.decodeMin [0x6E, 1, 0x64, 0, 0x62]) (State.resetWith ne0)) = .tlmMin ⟨1, true, 100⟩ := by decide
/-- V-D8. -/
theorem test_step_decodeMin_bad : resultOf (exec (.decodeMin [0x6E, 2, 0x64, 0, 0x63]) State.reset) = .formatError := by decide
/-- V-D9. -/
theorem test_step_decodeStd : resultOf (exec (.decodeStd std1) State.reset) = .tlmStd std1Record := by decide
/-- V-D11. -/
theorem test_step_decodeStd_be : resultOf (exec (.decodeStd std1) (State.resetWith be)) = .formatError := by decide
/-- V-D16. -/
theorem test_step_presence :
    ([0, 1, 2, 3, 4, 255].map fun b => resultOf (exec (.presence b) State.reset)) =
      [.bit false, .bit false, .bit true, .bit true, .bit true, .bit true] ∧
    ([0, 1, 2, 3, 4, 255].map fun b => resultOf (exec (.presence b) (State.resetWith ne0))) =
      [.bit false, .bit true, .bit true, .bit true, .bit true, .bit true] := by decide
/-- V-M4. -/
theorem test_step_family :
    resultOf (exec .family State.reset) = .family .min ∧
    resultOf (exec .family { State.reset with tfam := .std }) = .family .std ∧
    resultOf (exec .family { configuring [] with tfam := .std }) = .family .cfg := by decide

/-- V-S17. -/
theorem test_step_feed_full :
    bufOf (exec (.feed 0xFA) (streaming (List.replicate 253 0 ++ [0xFD, 0xFC, 0xFB]))) = ([0xFD, 0xFC, 0xFB, 0xFA], 253) ∧
    eventsOf (exec (.feed 0xFA) (streaming (List.replicate 253 0 ++ [0xFD, 0xFC, 0xFB]))) = [.diag .overflow] := by
  decide +kernel
/-- V-S3. -/
theorem test_step_extract : stateOf (exec .extract (streaming [0x6E, 0x6E, 0, 0, 0, 0x62])) =
    some { State.reset with
      pos := 6, events := [.diag .formatError], result := .frame .min [0x6E, 0, 0, 0, 0x62] } := by decide +kernel
/-- V-S13: a partial marker is kept. -/
theorem test_step_extract_part : bufOf (exec .extract { streaming [0xF4, 0xF3, 0xF4, 0xF3, 0xF2, 0xF1, 0x17] with tfam := .std }) =
    ([0xF4, 0xF3, 0xF2, 0xF1, 0x17], 2) := by decide +kernel
/-- V-S7: a false frame swallows the start of a real one. -/
theorem test_step_drain : stateOf (exec .drain (streaming [0x6E, 0x6E, 2, 0x64, 0x62, 0x62])) =
    some { State.reset with pos := 6, events := [.tlmMin ⟨0x6E, true, 25602⟩] } := by decide +kernel
/-- V-S24: a real frame inside a false candidate. -/
theorem test_step_drain_nested :
    stateOf (exec .drain (configuring [0xFD, 0xFC, 0xFB, 0xFA, 4, 0, 0xFD, 0xFC, 0xFB, 0xFA, 2, 0, 0x34, 0x12, 4, 3, 2, 1])) =
      some { configuring [] with pos := 18, events := [.diag .formatError, .stray 0x1234 []] } := by decide +kernel
/-- V-S1: the frame behind noise, at the RX of its last byte. -/
theorem test_step_rx : stateOf (exec (.rx 0x62) (streaming [0, 0xFF, 0x62, 0x6E, 1, 0x2C, 1])) =
    some { State.reset with pos := 8, events := [.tlmMin ⟨1, false, 300⟩] } := by decide +kernel
/-- V-S19 and V-S21: a length the format does not admit is rejected at once; one that just fits waits. -/
theorem test_step_rx_length :
    eventsOf (exec (.rx 0) (configuring [0xFD, 0xFC, 0xFB, 0xFA, 1])) = [.diag .formatError] ∧
    bufOf (exec (.rx 0) (configuring [0xFD, 0xFC, 0xFB, 0xFA, 0xF6])) = ([0xFD, 0xFC, 0xFB, 0xFA, 0xF6, 0], 0) := by
  decide +kernel
/-- Scenario A. -/
theorem test_step_tlmMin : stateOf (exec (.tlmMin 2 100) State.reset) =
    some { State.reset with pos := 5, events := [.tlmMin ⟨2, true, 100⟩] } := by decide +kernel
/-- V-M1: outside Streaming telemetry is noise. -/
theorem test_step_tlmMin_gated : stateOf (exec (.tlmMin 2 100) (pending 1000 [])) = some { pending 1000 [] with pos := 5 } := by
  decide +kernel
/-- V-S10. -/
theorem test_step_tlmStd : stateOf (exec (.tlmStd 1 3 100 150 0 std1Record.energy) { State.reset with tfam := .std }) =
    some { State.reset with tfam := .std, pos := 33, events := [.tlmStd std1Record] } := by decide +kernel
/-- V-S16. -/
theorem test_step_tlmStd_noise : stateOf (exec (.tlmStd 1 3 100 150 0 std1Record.energy) State.reset) =
    some { State.reset with pos := 33 } := by decide +kernel
/-- V-K1. -/
theorem test_step_cfgFrame : stateOf (exec (.cfgFrame 0x01FF [0, 0, 1, 0, 0x40, 0]) (pending 1000 [])) =
    some { pending 1000 [] with
      pos := 18, sess := .configuring, hs := .acked, rpCw := 0x01FF, rpLen := 6, rpPayload := [0, 0, 1, 0, 0x40, 0]
      events := [.ackDone 0x01FF [0, 0, 1, 0, 0x40, 0]] } := by decide +kernel
/-- V-K2: a reply to another command. -/
theorem test_step_cfgFrame_stray : stateOf (exec (.cfgFrame 0x0170 [0, 0]) (pending 1000 [])) =
    some { pending 1000 [] with
      pos := 14, events := [.diag .invalidReply, .stray 0x0170 [0, 0]] } := by decide +kernel
/-- V-K15, second half. -/
theorem test_step_cfgFrameCk : ctlOf (exec (.cfgFrameCk 0x01FF [0, 0]) { pending 1000 [] with cfg := ck }) =
    some (.configuring, .acked, .none) := by decide +kernel
/-- V-K15, first half: a wrong checksum. -/
theorem test_step_rx_checksum :
    eventsOf (exec (.rx 0xF3) { pending 1000 [0xFD, 0xFC, 0xFB, 0xFA, 4, 0, 0xFF, 1, 0, 0] with cfg := ck }) =
      [.diag .checksumError] := by decide +kernel
/-- V-K3b: a payload shorter than the status code. -/
theorem test_step_handleCfg_short :
    eventsOf (exec (.handleCfg [0xFD, 0xFC, 0xFB, 0xFA, 3, 0, 0xFF, 1, 0, 4, 3, 2, 1]) (pending 1000 [])) =
      [.cmdRejected 0x01FF [0]] := by decide
/-- With nothing pending there is no diagnostic (43_command_ack.md R177). -/
theorem test_step_handleCfg_stray : eventsOf (exec (.handleCfg ackExit) (configuring [])) = [.stray 0x01FE [0, 0]] := by decide
/-- 43_command_ack.md R172, the example; V-K12: the partial frame is flushed. -/
theorem test_step_issue : stateOf (exec (.issue 1 0x00FF 0x01FF true [1, 0]) (streaming [0x6E, 2, 0x64])) =
    some { pending 1000 [] with pos := 3, events := [.flushInput, .tx enterFrame], result := .ok } := by decide
/-- V-K6 and V-K11: busy comes before an invalid class. -/
theorem test_step_issue_refused :
    resultOf (exec (.issue 3 0x00FF 0x01FF true []) (pending 5 [])) = .busy ∧
    resultOf (exec (.issue 3 0x00FF 0x01FF true []) State.reset) = .invalidArgument := by decide
theorem test_step_nop : stateOf (exec .nop (configuring [0xFD])) = some (configuring [0xFD]) := by decide
theorem test_step_tick : stateOf (exec .tick (pending 1000 [])) = some (pending 999 []) := by decide
/-- V-K4. -/
theorem test_step_tick_timeout : stateOf (exec .tick (pending 1 [])) =
    some { pending 0 [] with
      hs := .failed, failReason := .timeout, sess := .streaming, events := [.cmdTimeout] } := by decide
/-- V-K8. -/
theorem test_step_xerr : stateOf (exec .xerr (pending 9 [0xFD, 0xFC])) =
    some { pending 9 [] with
      pos := 2, hs := .failed, failReason := .transport, sess := .streaming, events := [.cmdXerr] } := by decide
theorem test_step_xerr_idle : stateOf (exec .xerr (configuring [0xFD, 0xFC, 0xFB])) = some { configuring [] with pos := 3 } := by decide
/-- V-K1. -/
theorem test_step_poll : resultOf (exec .poll (acked [0, 0, 1, 0, 0x40, 0])) =
    .poll .acked 0x00FF (some ⟨0x01FF, [0, 0, 1, 0, 0x40, 0]⟩) := by decide +kernel
theorem test_step_poll_timedOut : resultOf (exec .poll (failed .timeout)) = .poll .timedOut 0x00FF none := by decide +kernel
/-- V-K7. -/
theorem test_step_cancel : stateOf (exec .cancel (pending 7 [])) = some { pending 7 [] with hs := .idle, sess := .streaming } := by decide
theorem test_step_cancel_idle : stateOf (exec .cancel (acked [])) = some (acked []) := by decide
theorem test_step_setTfam : stateOf (exec (.setTfam .std) State.reset) = some { State.reset with tfam := .std } := by decide
/-- V-K16. -/
theorem test_step_reserved : stateOf (exec (.reservedOp 9) State.reset) = some { State.reset with result := .illegalOp } := by decide
theorem test_step_reset : stateOf (exec .reset { pending 7 [0xFD] with pos := 4, tfam := .std }) = some State.reset := by decide

/-- Each command sends its word and class, and waits for its reply word (30_encoding.md R86). -/
theorem test_step_commands :
    ([.enterConfig [], .exitConfig [], .readFirmware [], .writeSerial [], .readSerial [], .writeParams [],
      .readParams [], .writeTrigger [], .readTrigger [], .writeHold [], .readHold [], .autoThreshold [],
      .switchOutput []].map fun i => match exec i State.reset with
        | .next t => (classCode t.pClass, t.pCw, t.pExpect, t.pChk)
        | .fault _ => (3, 0, 0, false)
        | .refused _ => (3, 0, 0, false)) =
    [(1, 0xFF, 0x1FF, true), (2, 0xFE, 0x1FE, true), (0, 0, 0x100, false), (0, 0x10, 0x110, true),
     (0, 0x11, 0x111, false), (0, 0x70, 0x170, true), (0, 0x71, 0x171, false), (0, 0x72, 0x172, true),
     (0, 0x73, 0x173, false), (0, 0x76, 0x176, true), (0, 0x77, 0x177, false), (0, 0x09, 0x109, true),
     (0, 0x7A, 0x17A, true)] := by decide

/-- ENTER_CONFIGURATION with the acknowledgement arriving before the first POLL (P2, steps 2 to 6). -/
theorem test_step_enterConfiguration :
    resultOf (exec (.enterConfiguration [1, 0] [[], ackEnter.map .rx]) State.reset) = .sequence .success := by decide +kernel
/-- Two attempts time out. -/
theorem test_step_enterConfiguration_timeout :
    eventsOf (exec (.enterConfiguration [1, 0] [[], [.tick, .tick], [], [.tick, .tick]]) (State.resetWith brief)) =
      [.flushInput, .tx enterFrame, .cmdTimeout, .flushInput, .tx enterFrame, .cmdTimeout] := by decide +kernel
/-- A pending command is cancelled first. -/
theorem test_step_exitConfiguration :
    ctlOf (exec (.exitConfiguration [] [[], [], ackExit.map .rx]) (pending 7 [])) = some (.streaming, .acked, .none) := by
  decide +kernel
/-- The exit step runs after a transport error, and the first error is reported (P5). -/
theorem test_step_applyConfiguration :
    resultOf (exec (.applyConfiguration ⟨none, some [], none, none, none, none⟩ ⟨[], [], [], [], [], []⟩ []) State.reset) =
      .sequence (.error .invalidArgument) ∧
    resultOf (exec (.applyConfiguration ⟨none, none, none, none, none, none⟩ ⟨[], [], [], [], [], []⟩
      [[], [.xerr], [], [], ackExit.map .rx]) (State.resetWith { Config.default with nAttempts := 1 })) =
      .sequence (.error (.status .transport)) := by decide +kernel

/-- A write fails, the exit is acknowledged: the write's error is reported, in Streaming (44_session_controller.md R212). -/
theorem test_step_applyConfiguration_write_fails :
    resultOf (exec (.applyConfiguration ⟨some ⟨1, 0, 10, 5, 80, 0⟩, none, none, none, none, none⟩ ⟨[], [], [], [], [], []⟩
      [[], ackEnter.map .rx, [], [.xerr], [], [], ackExit.map .rx])
      (State.resetWith { Config.default with nAttempts := 1 })) = .sequence (.error (.status .transport)) := by
  decide +kernel

/-- One DRAIN: the acknowledgement of EXIT_CONFIG returns to Streaming, and the telemetry frame behind it is decoded
(42_stream_synchronizer.md R149). -/
theorem test_step_drain_changes_family :
    eventsOf (exec .drain { pending 5 (ackExit ++ [0x6E, 0x02, 0x64, 0x00, 0x62]) with
      pClass := .exit, pCw := 0x00FE, pExpect := 0x01FE }) =
    [.ackDone 0x01FE [0, 0], .tlmMin ⟨2, true, 100⟩] := by decide +kernel

/-! ### Witnesses: states and operands that meet the hypotheses of each statement -/

theorem reset_inv : Inv State.reset := by
  refine ⟨default_wf, ?_, ?_, ?_, ?_, ?_, ?_, ?_, ?_⟩ <;> decide

theorem pending_inv : Inv (pending 1 [0xFD]) := by
  refine ⟨default_wf, ?_, ?_, ?_, ?_, ?_, ?_, ?_, ?_⟩ <;> decide

theorem witness_ReservedCodesAreIllegalOps :
    8 ≤ (8 : BitVec 4).toNat ∧ (14 : BitVec 4).toNat ≤ 14 ∧
      { State.reset with inq := [0x0E, 0x02] }.inq = BitVec.ofNat 8 (14 : BitVec 4).toNat :: [0x02] := by decide

theorem witness_SetTfamWritesOnlyTfam : State.reset.sess = .streaming := by decide

theorem witness_OnlySetTfamAndResetWriteTfam :
    ∃ t, exec .tick (pending 1 []) = .next t ∧ Instr.tick ≠ .reset ∧ ∀ m, Instr.tick ≠ .setTfam m :=
  ⟨_, rfl, by decide, fun m h => by cases h⟩

theorem witness_ChecksumIsTheByteSum : [(0xFF : Byte), 0x01].Perm [0x01, 0xFF] := by decide

/-- A payload of a given length. -/
theorem payload_of_length (n : Nat) : ∃ p : List Byte, p.length = n := ⟨List.replicate n 0, List.length_replicate⟩

theorem witness_EncodeBuildsTheFrame :
    (∃ p : List Byte, p.length = 65533 ∧ p.length ≤ 65533) ∧ (∃ p : List Byte, p.length = 65534 ∧ 65534 ≤ p.length) ∧
      Config.default.cfgTerm = .marker ∧ ck.cfgTerm = .checksum := by
  obtain ⟨p, hp⟩ := payload_of_length 65533
  obtain ⟨q, hq⟩ := payload_of_length 65534
  exact ⟨⟨p, hp, hp.le⟩, ⟨q, hq, hq.ge⟩, rfl, rfl⟩

/-- A payload that just fits is encoded. -/
theorem encodeFrame_some (c : Config) (cw : Word16) (p : List Byte) (h : p.length ≤ 65533) :
    ∃ f, encodeFrame c cw p = some f := by
  unfold encodeFrame
  rw [if_neg (by omega)]
  cases c.cfgTerm <;> exact ⟨_, rfl⟩

theorem witness_EncodedFramesAreExtractedWhole :
    ∃ p f, (configuring []).cfg.Wf ∧ (configuring []).buf = [] ∧ (configuring []).sess ≠ .streaming ∧
      (match (configuring []).cfg.cfgTerm with
        | .marker => 12 + p.length
        | .checksum => 9 + p.length) = (configuring []).cfg.cap ∧
      encodeFrame (configuring []).cfg 0x00FF p = some f := by
  obtain ⟨p, hp⟩ := payload_of_length 244
  obtain ⟨f, hf⟩ := encodeFrame_some Config.default 0x00FF p (by omega)
  exact ⟨p, f, default_wf, rfl, by decide, by rw [hp]; rfl, hf⟩

theorem witness_EncodedFramesAreExtractedWhole_checksum :
    ck.Wf ∧ (9 + [(1 : Byte), 0].length ≤ ck.cap) ∧ ∃ f, encodeFrame ck 0x00FF [1, 0] = some f :=
  ⟨ck_wf, by decide, _, rfl⟩

theorem witness_PresenceFollowsTheBuildsRule :
    State.reset.cfg.presenceRule = .ge2 ∧ (State.resetWith ne0).cfg.presenceRule = .ne0 := by decide

theorem witness_DecodeStdReadsTheWindow :
    (std1.take 4).length = 4 ∧ (std1.drop 29).length = 4 ∧ std1Record.energy.length = State.reset.cfg.maxGates := by
  decide

theorem witness_SinkCallsFollowTheEvents : Event.isTelemetry .cmdTimeout = false := by decide

theorem witness_FeedAppendsOrTruncates :
    (streaming (List.replicate 255 0)).cfg.Wf ∧
      (streaming (List.replicate 255 0)).buf.length < (streaming (List.replicate 255 0)).cfg.cap ∧
      (streaming (List.replicate 256 0)).buf.length = (streaming (List.replicate 256 0)).cfg.cap :=
  ⟨default_wf, by decide +kernel, by decide +kernel⟩

theorem witness_ExtractIsOneLeftToRightScan :
    ∃ r, r = scanBytes State.reset.cfg State.reset.family [0x00, 0x6E, 0x6E, 0, 0, 0, 0x62] ∧ r.removed = 7 :=
  ⟨_, rfl, by decide +kernel⟩

theorem witness_FrameBehindNoiseIsFound :
    let s := streaming [0x00, 0x62, 0x6E, 2, 100, 0, 0x62, 0x13]
    s.cfg.Wf ∧ (Instr.tlmMin 2 100).wellFormed s.cfg = true ∧ rowFamily (.tlmMin 2 100) = some s.family ∧
      encode s.cfg (.tlmMin 2 100) = some [0x6E, 2, 100, 0, 0x62] ∧
      s.buf = [0x00, 0x62] ++ [0x6E, 2, 100, 0, 0x62] ++ [0x13] ∧
      ∀ off < [(0x00 : Byte), 0x62].length, ¬ Spec.start s.family <+: s.buf.drop off :=
  ⟨default_wf, by decide, by decide, by decide, by decide, by decide⟩

theorem witness_RxRunsToQuiescence : State.reset.cfg.Wf := default_wf

theorem witness_RxIsFeedThenDrain :
    ∃ t u v, exec (.rx 0x6E) State.reset = .next t ∧ exec (.feed 0x6E) State.reset = .next u ∧
      exec .drain u = .next v := ⟨_, _, _, rfl, rfl, rfl⟩

theorem witness_MinimalFrameIsDelivered :
    State.reset.cfg.Wf ∧ State.reset.buf = [] ∧ State.reset.sess = .streaming ∧ State.reset.tfam = .min :=
  ⟨default_wf, rfl, rfl, rfl⟩

theorem witness_StandardFrameIsDelivered :
    let s := { State.resetWith nine with tfam := .std }
    s.cfg.Wf ∧ s.buf = [] ∧ s.sess = .streaming ∧ s.tfam = .std ∧
      [(1 : Byte), 2, 3, 4, 5, 6, 7, 8, 9].length = s.cfg.maxGates := ⟨nine_wf, rfl, rfl, rfl, rfl⟩

theorem witness_ConfigurationFrameIsHandled :
    (pending 5 []).cfg.Wf ∧ (pending 5 []).buf = [] ∧ (pending 5 []).sess ≠ .streaming ∧
      (pending 5 []).cfg.cfgTerm = .marker ∧ 12 + (List.replicate 244 (0 : Byte)).length ≤ (pending 5 []).cfg.cap :=
  ⟨default_wf, rfl, by decide, rfl, by simp only [List.length_replicate]; decide⟩

theorem witness_ConfigurationFrameIsHandled_checksum :
    let s := { pending 5 [] with cfg := ck }
    s.cfg.Wf ∧ s.buf = [] ∧ s.sess ≠ .streaming ∧ s.cfg.cfgTerm = .checksum ∧
      9 + (List.replicate 247 (0 : Byte)).length ≤ s.cfg.cap :=
  ⟨ck_wf, rfl, by decide, rfl, by simp only [List.length_replicate]; decide⟩

theorem witness_PartOfAFrameWaits :
    State.reset.cfg.Wf ∧ (Instr.tlmMin 2 100).wellFormed State.reset.cfg = true ∧
      rowFamily (.tlmMin 2 100) = some State.reset.family ∧
      encode State.reset.cfg (.tlmMin 2 100) = some [0x6E, 2, 100, 0, 0x62] ∧ State.reset.buf = [] ∧
      0 < 1 ∧ 4 < [(0x6E : Byte), 2, 100, 0, 0x62].length :=
  ⟨default_wf, by decide, by decide, by decide, rfl, by decide, by decide⟩

theorem witness_NoStepOverflows :
    ∃ t, Inv State.reset ∧ step State.reset = .next t := ⟨_, reset_inv, rfl⟩

theorem witness_IssueSendsAndWaits :
    State.reset.hs ≠ .sent ∧ (1 : BitVec 2) = classCode .enter ∧ [(1 : Byte), 0].length ≤ State.reset.cfg.txPayloadMax ∧
      encodeFrame State.reset.cfg 0x00FF [1, 0] = some enterFrame := by decide

theorem witness_IssueRefusalsChangeNothing :
    (pending 5 []).hs = .sent ∧ (failed .timeout).hs ≠ .sent ∧
      65535 < 2 + (List.replicate 65534 (0 : Byte)).length ∧
      (State.resetWith narrow).cfg.txPayloadMax < [(1 : Byte), 2, 3, 4, 5].length :=
  ⟨by decide, by decide, by simp only [List.length_replicate]; decide, by decide⟩

theorem witness_CommandsIssueTheirRow :
    (Instr.enterConfig [1, 0]).command? = some (.enterConfig, [1, 0]) ∧ State.reset.hs ≠ .sent ∧
      [(1 : Byte), 0].length ≤ State.reset.cfg.txPayloadMax ∧
      encodeFrame State.reset.cfg (State.reset.cfg.word .enterConfig) [1, 0] = some enterFrame := by decide

theorem witness_TickCountsAndTimesOut :
    State.reset.hs ≠ .sent ∧ (pending 2 []).hs = .sent ∧ 2 ≤ (pending 2 []).tmoCnt ∧ (pending 1 []).tmoCnt = 1 := by
  decide

theorem witness_TimeoutAtTheLastTickOnly :
    (pending 3 []).hs = .sent ∧ 1 ≤ (pending 1 []).tmoCnt ∧ 1 ≤ 2 ∧ 2 < (pending 3 []).tmoCnt := by decide

theorem witness_PollReportsTheHandler :
    Quiescent State.reset ∧ State.reset.hs = .idle ∧ (pending 5 []).hs = .sent ∧ (acked []).hs = .acked ∧
      (acked []).rpValid = true ∧ (failed .timeout).failReason = .timeout ∧ (failed .rejected).failReason = .rejected ∧
      (failed .transport).failReason = .transport ∧ (failed .transport).hs = .failed :=
  ⟨⟨_, rfl, rfl⟩, by decide⟩

theorem witness_CancelAbandonsOnlyAPendingCommand : (pending 5 []).hs = .sent ∧ (acked []).hs ≠ .sent := by decide

theorem witness_TransportErrorEmptiesTheBuffer :
    (pending 5 [0xFD]).hs = .sent ∧ (configuring [0xFD]).hs ≠ .sent := by decide

theorem witness_HandleCfgParsesTheReply :
    encodeFrame (pending 5 []).cfg 0x01FE [0, 0] = some ackExit := by decide

theorem witness_TerminalResultsAreSticky :
    ∃ t u, exec .tick (acked []) = .next t ∧ (acked []).hs = .acked ∧ exec .poll (failed .timeout) = .next u ∧
      (failed .timeout).hs = .failed ∧ isIssue .tick = false ∧ Instr.poll ≠ .reset ∧ Instr.poll.format ≠ .pseudo :=
  ⟨_, _, rfl, rfl, rfl, by decide⟩

theorem witness_HandlerChangesOnlyByTheTable :
    ∃ t, Inv (pending 1 [0xFD]) ∧ exec .xerr (pending 1 [0xFD]) = .next t ∧ Instr.xerr.format ≠ .pseudo ∧
      t.hs ≠ (pending 1 [0xFD]).hs := ⟨_, pending_inv, rfl, by decide, by decide⟩

theorem witness_OnlyIssueTransmits :
    ∃ t, exec .xerr (pending 5 []) = .next t ∧ isIssue .xerr = false ∧ Instr.xerr.format ≠ .pseudo ∧
      Event.cmdXerr ∈ t.events := ⟨_, rfl, by decide, by decide, by decide⟩

theorem witness_StaleReplyToTheSameCommandIsAccepted :
    let s := State.resetWith brief
    ∃ t u, s.cfg.Wf ∧ s.hs ≠ .sent ∧ s.cfg.cfgTerm = .marker ∧ (Instr.cfgFrame 0x01FF [0, 0]).wellFormed s.cfg = true ∧
      exec (.issue 1 0x00FF 0x01FF true [1, 0]) s = .next t ∧ t.result = .ok ∧
      runOps (ticks s.cfg.timeoutTicks) t = some u ∧ statusAccepted s.cfg [0, 0] ∧ ¬ statusAccepted s.cfg [1, 0] :=
  ⟨_, _, brief_wf, by decide, rfl, by decide, rfl, rfl, rfl, by unfold statusAccepted; decide, by unfold statusAccepted; decide⟩

theorem witness_StaleReply_checksum :
    let s := State.resetWith { brief with cfgTerm := .checksum }
    ∃ t u, s.cfg.Wf ∧ s.hs ≠ .sent ∧ s.cfg.cfgTerm = .checksum ∧ (Instr.cfgFrameCk 0x01FF [0, 0]).wellFormed s.cfg = true ∧
      exec (.issue 1 0x00FF 0x01FF true [1, 0]) s = .next t ∧ t.result = .ok ∧
      runOps (ticks s.cfg.timeoutTicks) t = some u :=
  ⟨_, _, { brief_wf with }, by decide, rfl, by decide, rfl, rfl, rfl⟩

theorem witness_SessionChangesOnlyByTheTable :
    ∃ t, Inv (pending 1 [0xFD]) ∧ exec .tick (pending 1 [0xFD]) = .next t ∧ Instr.tick.format ≠ .pseudo ∧
      t.sess ≠ (pending 1 [0xFD]).sess := ⟨_, pending_inv, rfl, by decide, by decide⟩

theorem witness_TelemetryAndRepliesExcludeEachOther :
    ∃ t u, exec (.cfgFrame 0x0170 [0, 0]) (pending 5 []) = .next t ∧ t.sess ≠ .streaming ∧
      exec (.tlmMin 2 100) State.reset = .next u ∧ State.reset.sess = .streaming ∧
      Instr.format (.tlmMin 2 100) ≠ .pseudo ∧ ∀ w, Instr.tlmMin 2 100 ≠ .handleCfg w := by
  refine ⟨_, _, rfl, by decide +kernel, rfl, by decide, by decide, ?_⟩
  intro w h; cases h

theorem witness_EnterConfigurationEndsAsItReports :
    State.reset.cfg.Wf ∧ [(1 : Byte), 0].length ≤ State.reset.cfg.txPayloadMax := ⟨default_wf, by decide⟩

theorem witness_ExitConfigurationReturnsToStreaming :
    (pending 5 []).cfg.Wf ∧ ([] : List Byte).length ≤ (pending 5 []).cfg.txPayloadMax := ⟨default_wf, by decide⟩

/-- A parameter set whose values all stand at an end of their range. -/
def edges : ParamSet where
  general := some ⟨16, 0, 120, 5, 80, 7⟩
  trigger := some (List.replicate 16 100)
  hold := some (List.replicate 16 0)
  auto := some ⟨1, 10, 600⟩
  serial := some [0x31, 0x32, 0x33, 0x34, 0x35, 0x36, 0x37, 0x38]
  outputFormat := some .std

theorem edges_ok : CatalogOk State.reset.cfg edges := by
  constructor <;> simp [edges, State.reset, State.resetWith, Config.default]
  exact ⟨16, by decide⟩

theorem witness_ApplyConfigurationChecksThenAlwaysExits :
    ¬ CatalogOk State.reset.cfg { edges with general := some ⟨17, 0, 120, 5, 80, 7⟩ } ∧
      CatalogOk State.reset.cfg edges ∧ State.reset.cfg.Wf ∧
      ([] : List Byte).length ≤ State.reset.cfg.txPayloadMax := by
  refine ⟨fun h => ?_, edges_ok, default_wf, by decide⟩
  exact absurd (h.farthest ⟨17, 0, 120, 5, 80, 7⟩ rfl).2 (by decide)

/-- An exchange with the status accepted. -/
theorem exchange_ok {m : Command} {tx rx : List Byte} (h1 : encodeFrame Config.default (Config.default.word m) [] = some tx)
    (h2 : encodeFrame Config.default (Config.default.word m ||| Config.default.replyFlag) [0, 0] = some rx)
    (h3 : rx.length ≤ 256) : Exchange Config.default m [] tx [0, 0] rx :=
  ⟨by decide, h1, h2, h3, by simp [statusAccepted, Config.default]; decide⟩

theorem witness_EnterConfigurationSucceedsOnItsReply :
    ∃ tx rx, State.reset.cfg.Wf ∧ State.reset.hs ≠ .sent ∧ Exchange State.reset.cfg .enterConfig [] tx [0, 0] rx :=
  ⟨_, _, default_wf, by decide, exchange_ok rfl rfl (by decide)⟩

theorem witness_EnterConfigurationGivesUpAfterTheLastAttempt :
    ∃ tx, (State.resetWith brief).cfg.Wf ∧ (State.resetWith brief).hs ≠ .sent ∧
      [(1 : Byte), 0].length ≤ (State.resetWith brief).cfg.txPayloadMax ∧
      encodeFrame (State.resetWith brief).cfg (State.resetWith brief).cfg.words.enterConfig [1, 0] = some tx :=
  ⟨_, brief_wf, by decide, by decide, rfl⟩

theorem witness_ExitConfigurationSucceedsOnItsReply :
    ∃ tx rx, (pending 5 []).cfg.Wf ∧ Exchange (pending 5 []).cfg .exitConfig [] tx [0, 0] rx :=
  ⟨_, _, default_wf, exchange_ok rfl rfl (by decide)⟩

theorem witness_ApplyConfigurationWritesEveryGroup :
    ∃ tx rx : Command → List Byte, State.reset.cfg.Wf ∧ State.reset.hs ≠ .sent ∧ CatalogOk State.reset.cfg edges ∧
      ∀ x ∈ commandsToApply edges ⟨[], [], [], [], [], []⟩ ++ [(Command.exitConfig, [])],
        Exchange State.reset.cfg x.1 x.2 (tx x.1) [0, 0] (rx x.1) := by
  refine ⟨fun m => (encodeFrame Config.default (Config.default.word m) []).getD [],
    fun m => (encodeFrame Config.default (Config.default.word m ||| Config.default.replyFlag) [0, 0]).getD [],
    default_wf, by decide, edges_ok, ?_⟩
  intro x hx
  have h2 : x.2 = [] := by
    simp only [commandsToApply, edges, Option.toList, List.map_cons, List.map_nil, List.cons_append, List.nil_append,
      List.mem_cons, List.not_mem_nil, or_false] at hx
    rcases hx with rfl | rfl | rfl | rfl | rfl | rfl <;> rfl
  rw [h2]
  exact exchange_ok (by cases x.1 <;> rfl) (by cases x.1 <;> rfl) (by cases x.1 <;> decide)

theorem witness_ResetSatisfiesTheInvariants : Config.default.Wf := default_wf

theorem witness_StepKeepsTheInvariants :
    ∃ t, Inv { State.reset with inq := [0x01, 0x6E] } ∧ step { State.reset with inq := [0x01, 0x6E] } = .next t :=
  ⟨_, by refine ⟨default_wf, ?_, ?_, ?_, ?_, ?_, ?_, ?_, ?_⟩ <;> decide, rfl⟩

theorem witness_InstructionsKeepTheInvariants :
    ∃ t, Inv (pending 1 [0xFD]) ∧ exec .drain (pending 1 [0xFD]) = .next t ∧ (∀ b, Instr.drain ≠ .feed b) ∧
      ∀ w, Instr.drain ≠ .handleCfg w :=
  ⟨_, pending_inv, rfl, (fun _ h => by cases h), (fun _ h => by cases h)⟩

theorem witness_EveryInstructionCompletes :
    (Instr.handleCfg ackExit).wellFormed State.reset.cfg = true ∧
      (Instr.decodeStd std1).wellFormed State.reset.cfg = true := by decide

theorem witness_ShortWindowsFault :
    ([0x6E, 2, 0x64, 0] : List Byte).length < 5 ∧ (std1.take 32).length < 17 + State.reset.cfg.maxGates ∧
      (ackExit.take 7).length < 8 ∧ 8 ≤ (ackExit.take 9).length ∧
      (ackExit.take 9).length < 6 + (((ackExit.take 9).getD 4 0).toNat + 256 * ((ackExit.take 9).getD 5 0).toNat) := by
  decide

theorem witness_StepRunsTheNextRequest :
    decode State.reset.cfg [0x02, 0x05] = .ok (.tick, [0x05]) ∧ State.reset.inq = [] ∧
      decode State.reset.cfg [0x62] = .error (.unknownCode 0x62) := by decide

theorem witness_SimultaneousRequestsRunInOrder :
    let is := [Instr.poll, .tlmMin 2 100, .enterConfig [1, 0], .reset]
    ∃ t, State.reset.cfg.Wf ∧ State.reset.inq = [] ∧
      (∀ i ∈ is, i.wellFormed State.reset.cfg = true ∧ i.format ≠ .micro ∧ i.format ≠ .pseudo) ∧
      inFixedOrder is = [.reset, .tlmMin 2 100, .enterConfig [1, 0], .poll] ∧
      runOps (inFixedOrder is) State.reset = some t := ⟨_, default_wf, rfl, by decide, by decide, rfl⟩

theorem test_fixed_order : arbitrate [.poll, .setTfam .std, .issue 0 1 2 false [], .cancel, .rx 7, .tick, .xerr, .nop, .reset] =
    [.reset, .xerr, .tick, .rx 7, .cancel, .issue 0 1 2 false [], .setTfam .std, .poll, .nop] := by decide

theorem witness_DecodeInvertsEncode :
    ∃ bytes, Config.default.Wf ∧ (Instr.readHold [7]).wellFormed Config.default = true ∧
      encode Config.default (.readHold [7]) = some bytes := ⟨_, default_wf, by decide, rfl⟩

theorem witness_EncodeInvertsDecode : Config.default.Wf ∧ decode Config.default ackEnter =
    .ok (.cfgFrame 0x01FF [0, 0, 1, 0, 0x40, 0], []) := ⟨default_wf, by decide⟩

theorem witness_PositionIsNeverRead :
    ∃ t, exec .xerr (pending 5 [0xFD]) = .next t ∧ Instr.xerr ≠ .reset ∧ t.pos = 1 := ⟨_, rfl, by decide, by decide⟩

theorem witness_InvalidReplyRegistersAreNeverRead :
    ∃ t, SameButReply (pending 5 []) { pending 5 [] with rpCw := 7, rpLen := 1, rpPayload := [9] } ∧
      (pending 5 []).rpValid = false ∧ exec (.cfgFrame 0x01FF [0, 0]) (pending 5 []) = .next t ∧ t.rpValid = true :=
  ⟨_, rfl, by decide, rfl, by decide +kernel⟩

end Sys2Proof.Tests
end

section
/-! The Frame Codec: CHECKSUM, MATCH and ENCODE byte by byte (40_frame_codec.md R101 to R104), and the refusals of ISSUE
(43_command_ack.md R171), one of which is ENCODE refusing the payload. -/

namespace Sys2Proof.Proofs

open Sys2Proof.Machine Sys2Proof.Spec

/-! ### CHECKSUM -/

theorem checksumOf_toNat (bytes : List Byte) :
    (checksumOf bytes).toNat = (bytes.map BitVec.toNat).sum % 256 := by
  simp [checksumOf]

theorem checksumOf_perm {bytes other : List Byte} (h : bytes.Perm other) : checksumOf other = checksumOf bytes := by
  rw [checksumOf, checksumOf, (h.map BitVec.toNat).sum_eq]

theorem exec_checksum (bytes : List Byte) (s : State) :
    exec (.checksum bytes) s = .next { s with events := [], result := .byte (checksumOf bytes) } := rfl

/-- Settles O7: addition on naturals does not see the order. -/
theorem checksumIsTheByteSum : Obligations.ChecksumIsTheByteSum := by
  intro bytes s
  refine ⟨checksumOf bytes, exec_checksum bytes s, checksumOf_toNat bytes, fun other h => ?_⟩
  rw [exec_checksum, checksumOf_perm h]

/-! ### MATCH -/

/-- MATCH cuts the bytes into those before the offset, the marker, and those after it. -/
theorem matchAt_iff_exists_append {s m : List Byte} {off : Nat} :
    matchAt s off m = true ↔ ∃ pre post, s = pre ++ m ++ post ∧ pre.length = off := by
  rw [matchAt_iff]
  constructor
  · rintro ⟨hlen, hm⟩
    have hcut : m ++ (s.drop off).drop m.length = s.drop off := by
      simpa only [hm] using List.take_append_drop m.length (s.drop off)
    refine ⟨s.take off, (s.drop off).drop m.length, ?_, by rw [List.length_take]; omega⟩
    rw [List.append_assoc, hcut, List.take_append_drop]
  · rintro ⟨pre, post, rfl, rfl⟩
    constructor
    · simp
    · rw [List.append_assoc, List.drop_left, List.take_left]

theorem exec_matchMarker (bytes : List Byte) (off : Nat) (m : Marker) (s : State) :
    exec (.matchMarker bytes off m) s =
      .next { s with events := [], result := .bit (matchAt bytes off (markerBytes m)) } := rfl

/-- Settles O8, by cutting the bytes at the offset and behind the marker. -/
theorem matchFindsTheWholeMarker : Obligations.MatchFindsTheWholeMarker := fun bytes off m s =>
  ⟨matchAt bytes off (markerBytes m), exec_matchMarker bytes off m s, matchAt_iff_exists_append⟩

/-! ### ENCODE -/

theorem lo8_toNat (v : Nat) : (lo8 v).toNat = v % 256 := by simp [lo8]

theorem hi8_toNat {v : Nat} (h : v < 65536) : (hi8 v).toNat = v / 256 := by
  simp only [hi8, BitVec.toNat_ofNat]; omega

theorem cfgBody_eq (cw : Word16) (p : List Byte) :
    cfgBody cw p =
      [0xFD, 0xFC, 0xFB, 0xFA, lo8 (2 + p.length), hi8 (2 + p.length), lo8 cw.toNat, hi8 cw.toNat] ++ p := rfl

theorem encodeFrame_eq_none {c : Config} {cw : Word16} {p : List Byte} (h : 65534 ≤ p.length) :
    encodeFrame c cw p = none := if_pos (by omega)

/-- ENCODE answers where the length field holds the length, with the frame of the build's terminator. -/
theorem encodeFrame_eq_some {c : Config} {cw : Word16} {p w : List Byte} :
    encodeFrame c cw p = some w ↔ p.length ≤ 65533 ∧
      ((c.cfgTerm = .marker ∧ w = cfgFrameMarker cw p) ∨ (c.cfgTerm = .checksum ∧ w = cfgFrameChecksum cw p)) := by
  unfold encodeFrame
  split
  · simp; omega
  · cases c.cfgTerm <;> simp [eq_comm] <;> omega

theorem exec_encode_some {cw : Word16} {p w : List Byte} {s : State} (h : encodeFrame s.cfg cw p = some w) :
    exec (.encode cw p) s = .next { s with events := [], result := .bytes w } := by
  show execEncode cw p s = _
  rw [execEncode, h]; rfl

theorem exec_encode_none {cw : Word16} {p : List Byte} {s : State} (h : encodeFrame s.cfg cw p = none) :
    exec (.encode cw p) s = .next { s with events := [], result := .invalidArgument } := by
  show execEncode cw p s = _
  rw [execEncode, h]; rfl

/-- Settles O9, with the bytes of `cfgBody` as header and payload under either terminator. -/
theorem encodeBuildsTheFrame : Obligations.EncodeBuildsTheFrame := by
  intro cw payload s
  constructor
  · intro hlen
    refine ⟨lo8 (2 + payload.length), hi8 (2 + payload.length), lo8 cw.toNat, hi8 cw.toNat,
      lo8_toNat _, hi8_toNat (by omega), lo8_toNat _, hi8_toNat cw.isLt, fun hterm => ?_, fun hterm => ?_⟩
    · exact exec_encode_some (encodeFrame_eq_some.mpr ⟨hlen, .inl ⟨hterm, rfl⟩⟩)
    · exact ⟨checksumOf (cfgBody cw payload), checksumOf_toNat _,
        exec_encode_some (encodeFrame_eq_some.mpr ⟨hlen, .inr ⟨hterm, rfl⟩⟩)⟩
  · exact fun hlen => exec_encode_none (encodeFrame_eq_none hlen)

/-! ### The refusals of ISSUE -/

theorem exec_issue (cls : BitVec 2) (cw ex : Word16) (chk : Bool) (p : List Byte) (s : State) :
    exec (.issue cls cw ex chk p) s = .next (issue cls cw ex chk p s.opStart) := rfl

/-- Settles O27, by the three ways an ISSUE ends: each refused operand contradicts what an accepted one satisfies. -/
theorem issueRefusalsChangeNothing : Obligations.IssueRefusalsChangeNothing := by
  intro s cls cw ex chk payload
  rw [exec_issue]
  rcases issue_cases cls cw ex chk payload s.opStart with
    ⟨hres, hsent⟩ | ⟨hres, hidle⟩ | ⟨hidle, k, frame, hcls, hmax, henc, -⟩
  · exact ⟨fun _ => by rw [hres]; rfl, fun hne => absurd hsent hne⟩
  · exact ⟨fun hs => absurd hs hidle, fun _ _ => by rw [hres]; rfl⟩
  · refine ⟨fun hs => absurd hs hidle, fun _ hbad => ?_⟩
    rcases hbad with rfl | hlong | hlong
    · cases hcls
    · have := (encodeFrame_eq_some.mp henc).1
      omega
    · exact absurd hmax (Nat.not_le.mpr hlong)

end Sys2Proof.Proofs
end

section
/-! The round trip of the codec (40_frame_codec.md R106): a frame ENCODE builds is fed without loss, is a window EXTRACT
validates, and has the command word and payload HANDLE_CFG reads. -/

namespace Sys2Proof.Proofs

open Sys2Proof.Machine Sys2Proof.Spec

/-! ### FEED of bytes that fit -/

theorem exec_feed_of_room {b : Byte} {s : State} (h : s.buf.length < s.cfg.cap) :
    exec (.feed b) s = .next { s with buf := s.buf ++ [b], events := [], result := .none } := by
  show Host.Outcome.next (feed b s.opStart) = _
  rcases feed_cases b s.opStart with ⟨-, hf⟩ | ⟨hfull, -⟩
  · rw [hf]; rfl
  · exact absurd h (Nat.not_lt.mpr hfull)

/-- Bytes that fit into the buffer are appended in order, with no event. -/
theorem runOps_feed_of_room (bs : List Byte) : ∀ (b : Byte) (s : State), s.buf.length + (b :: bs).length ≤ s.cfg.cap →
    runOps ((b :: bs).map .feed) s = some { s with buf := s.buf ++ b :: bs, events := [], result := .none } := by
  induction bs with
  | nil =>
    intro b s h
    have hroom : s.buf.length < s.cfg.cap := by simpa using h
    simp only [List.map_cons, List.map_nil, runOps, exec_feed_of_room hroom]
  | cons b' bs ih =>
    intro b s h
    have hroom : s.buf.length < s.cfg.cap := by simp only [List.length_cons] at h; omega
    rw [List.map_cons, runOps, exec_feed_of_room hroom]
    simp only []
    rw [ih b' _ (by simp only [List.length_append, List.length_cons, List.length_nil] at h ⊢; omega)]
    simp

/-! ### EXTRACT of a buffer that begins with a valid window -/

/-- The start marker of a validated window stands at offset 0, whatever follows the window. -/
theorem matchAt_zero_of_validated {c : Config} {f : Family} {w : List Byte} (h : Validated c f w) (rest : List Byte) :
    matchAt (w ++ rest) 0 (startMarker f) = true := by
  refine matchAt_iff_exists_append.mpr ⟨[], w.drop (startMarker f).length ++ rest, ?_, rfl⟩
  calc w ++ rest = w.take (startMarker f).length ++ w.drop (startMarker f).length ++ rest := by
        rw [List.take_append_drop]
    _ = [] ++ startMarker f ++ (w.drop (startMarker f).length ++ rest) := by
        rw [h.start, List.nil_append, List.append_assoc]

/-- EXTRACT returns a validated window at the front of the buffer in its first pass (42_stream_synchronizer.md R148). -/
theorem extract_of_validated {s : State} {w rest : List Byte} (h : Validated s.cfg s.family w)
    (hb : s.buf = w ++ rest) : extract s = .ok (s.removePrefix w.length, some w) := by
  have h0 : s.removePrefix 0 = s := by rw [State.removePrefix_eq_scanned, State.scanned_eq_self]
  have hfirst : firstMatch s.buf (startMarker s.family) = some 0 :=
    firstMatch_of_match_zero (hb ▸ matchAt_zero_of_validated h rest)
  have hhead : headerLength s.cfg s.family s.buf = .ok (.total w.length) := hb ▸ headerLength_append h
  have hlen : ¬ s.buf.length < w.length := by simp [hb]
  have hread : memRead s.buf 0 w.length = .ok w := by
    rw [hb, memRead_eq_ok (by simp), List.drop_zero, List.take_left]
  simp only [extract, extractLoop, hfirst, h0, hhead, if_neg hlen, hread, h.tail, bind, Except.bind, if_true]

theorem exec_extract_of_validated {s : State} {w : List Byte} (h : Validated s.cfg s.family w) (hb : s.buf = w) :
    exec .extract s = .next { s with
      buf := [], pos := s.pos + w.length, events := [], result := .frame s.family w } := by
  have hx := extract_of_validated (s := s.opStart) (w := w) (rest := []) h (by simpa using hb)
  show execExtract s = _
  simp only [execExtract, hx]
  simp [State.removePrefix, State.setResult, State.opStart, hb]

theorem family_of_not_streaming {s : State} (h : s.sess ≠ .streaming) : s.family = .cfg := by
  cases hs : s.sess with
  | streaming => exact absurd hs h
  | awaitingAck => simp only [State.family, hs]
  | configuring => simp only [State.family, hs]

/-! ### The frames of ENCODE -/

theorem encodeFrame_length {c : Config} {cw : Word16} {p w : List Byte} (h : encodeFrame c cw p = some w) :
    w.length = cfgTotal c (2 + p.length) := by
  obtain ⟨-, ⟨hterm, rfl⟩ | ⟨hterm, rfl⟩⟩ := encodeFrame_eq_some.mp h
  · simp only [cfgTotal, hterm, cfgFrameMarker, List.length_append, cfgBody_length, markerBytes, List.length_cons,
      List.length_nil]
    omega
  · simp only [cfgTotal, hterm, cfgFrameChecksum, List.length_append, cfgBody_length, List.length_cons, List.length_nil]
    omega

theorem validated_of_encodeFrame {c : Config} {cw : Word16} {p w : List Byte} (hc : c.Wf)
    (h : encodeFrame c cw p = some w) (hfit : w.length ≤ c.cap) : Validated c .cfg w := by
  rw [encodeFrame_length h] at hfit
  obtain ⟨-, ⟨hterm, rfl⟩ | ⟨hterm, rfl⟩⟩ := encodeFrame_eq_some.mp h
  · simp only [cfgTotal, hterm] at hfit
    exact validated_cfgFrameMarker hc hterm cw p (by omega)
  · simp only [cfgTotal, hterm] at hfit
    exact validated_cfgFrameChecksum hc hterm cw p (by omega)

/-- HANDLE_CFG reads back the command word and payload, whatever terminator follows (43_command_ack.md R175). -/
theorem cfgFields_cfgBody {cw : Word16} {p : List Byte} (hp : p.length ≤ 65533) (tl : List Byte) :
    cfgFields (cfgBody cw p ++ tl) = .ok (cw, p) := by
  obtain ⟨e4, e5, e6, e7⟩ := cfgBody_header cw p tl
  have hL : u16le (lo8 (2 + p.length)) (hi8 (2 + p.length)) - 2 = p.length := by
    rw [u16le_bytesLe _ (by omega)]; omega
  have hread : memRead (cfgBody cw p ++ tl) 8 p.length = .ok p := by
    rw [memRead_eq_ok (by rw [List.length_append, cfgBody_length]; omega), cfgBody_eq]
    simp
  simp only [cfgFields, e4, e5, e6, e7, hL, hread, word16_bytesLe, bind, Except.bind]

theorem cfgFields_of_encodeFrame {c : Config} {cw : Word16} {p w : List Byte} (h : encodeFrame c cw p = some w) :
    cfgFields w = .ok (cw, p) := by
  obtain ⟨hp, ⟨-, rfl⟩ | ⟨-, rfl⟩⟩ := encodeFrame_eq_some.mp h
  · exact cfgFields_cfgBody hp _
  · exact cfgFields_cfgBody hp _

/-! ### The reply parser and its specification -/

/-- The little-endian value of the first `n` bytes, digit by digit (30_encoding.md R76). -/
theorem leValue_take (n : Nat) : ∀ p : List Byte,
    leValue (p.take n) = ((List.range n).map fun k => (p.getD k 0).toNat * 256 ^ k).sum := by
  induction n with
  | zero => intro p; rfl
  | succ n ih =>
    intro p
    cases p with
    | nil => simp [leValue]
    | cons b p =>
      rw [List.take_succ_cons, leValue, ih, List.range_succ_eq_map, List.map_cons, List.map_map, List.sum_cons,
        ← List.sum_map_mul_left]
      simp only [List.getD_cons_zero, pow_zero, mul_one, Function.comp_def, List.getD_cons_succ, pow_succ]
      congr 3
      funext k
      ring

/-- The status test is the specification's (43_command_ack.md R176). -/
theorem statusOk_iff {c : Config} {chk : Bool} {p : List Byte} :
    statusOk c chk p = true ↔ chk = false ∨ statusAccepted c p := by
  simp only [statusOk, statusAccepted, leValue_take, Bool.or_eq_true, Bool.not_eq_true', Bool.and_eq_true,
    decide_eq_true_eq]

/-- The reply parser does what the specification gives a reply (43_command_ack.md R175 to R177). -/
theorem handleReply_opStart (cw : Word16) (p : List Byte) (s : State) :
    handleReply cw p s.opStart = replyEffect cw p s := by
  unfold replyEffect
  rcases handleReply_cases cw p s.opStart with
    ⟨hs, hcw, hst, h⟩ | ⟨hs, hcw, hst, h⟩ | ⟨hs, hcw, h⟩ | ⟨hs, h⟩
  · have hacc := statusOk_iff.mp hst
    simp only [State.opStart_hs, State.opStart_pExpect, State.opStart_pChk, State.opStart_cfg] at hs hcw hacc
    rw [h, if_pos ⟨hs, hcw⟩, if_pos hacc]
    rfl
  · have hacc := statusOk_iff.not.mp (by rw [hst]; exact Bool.false_ne_true)
    simp only [State.opStart_hs, State.opStart_pExpect, State.opStart_pChk, State.opStart_cfg] at hs hcw hacc
    rw [h, if_pos ⟨hs, hcw⟩, if_neg hacc]
    rfl
  · simp only [State.opStart_hs, State.opStart_pExpect] at hs hcw
    rw [h, if_neg fun hc => hcw hc.2, if_pos hs]
    rfl
  · simp only [State.opStart_hs] at hs
    rw [h, if_neg fun hc => hs hc.1, if_neg hs]
    rfl

theorem exec_handleCfg_of_fields {w : List Byte} {cw : Word16} {p : List Byte} {s : State}
    (h : cfgFields w = .ok (cw, p)) : exec (.handleCfg w) s = .next (replyEffect cw p s) := by
  show toOut (handleCfg w s.opStart) = _
  simp only [handleCfg, h, handleReply_opStart, bind, Except.bind, toOut]

/-- Settles O10: the frame is fed whole, is a validated window, and has its own fields. -/
theorem encodedFramesAreExtractedWhole : Obligations.EncodedFramesAreExtractedWhole := by
  intro s cw payload frame hwf hbuf hsess hfit henc
  have hcap : frame.length ≤ s.cfg.cap := by
    rw [encodeFrame_length henc]
    cases hterm : s.cfg.cfgTerm with
    | marker => simp only [cfgTotal, hterm] at hfit ⊢; omega
    | checksum => simp only [cfgTotal, hterm] at hfit ⊢; omega
  have hval := validated_of_encodeFrame hwf henc hcap
  have hfam := family_of_not_streaming hsess
  refine ⟨?_, ?_, exec_handleCfg_of_fields (cfgFields_of_encodeFrame henc)⟩
  · cases frame with
    | nil => cases hval.start
    | cons b bs =>
      rw [runOps_feed_of_room bs b s (by rw [hbuf]; simpa using hcap), hbuf, List.nil_append]
  · have hfam' : State.family { s with buf := frame } = .cfg := hfam
    rw [exec_extract_of_validated (s := { s with buf := frame }) (hfam' ▸ hval) rfl, hfam']

end Sys2Proof.Proofs
end

section
/-! The Telemetry Decoder: PRESENCE, and DECODE_MIN and DECODE_STD of whole windows, field by field
(41_telemetry_decoder.md R121 to R123, R127). -/

namespace Sys2Proof.Proofs

open Sys2Proof.Machine Sys2Proof.Spec

/-! ### PRESENCE -/

theorem presenceOf_ge2 {c : Config} (h : c.presenceRule = .ge2) (state : Byte) :
    presenceOf c state = true ↔ 2 ≤ state.toNat := by
  simp only [presenceOf, h, decide_eq_true_eq]

theorem presenceOf_ne0 {c : Config} (h : c.presenceRule = .ne0) (state : Byte) :
    presenceOf c state = true ↔ state.toNat ≠ 0 := by
  simp only [presenceOf, h, decide_eq_true_eq]

/-- The model's rule is the specification's. -/
theorem presenceOf_eq_presenceBit (c : Config) (state : Byte) : presenceOf c state = presenceBit c state := rfl

theorem exec_presence (state : Byte) (s : State) :
    exec (.presence state) s = .next { s with events := [], result := .bit (presenceOf s.cfg state) } := rfl

/-- Settles O11, by the two rules. -/
theorem presenceFollowsTheBuildsRule : Obligations.PresenceFollowsTheBuildsRule := fun state s =>
  ⟨presenceOf s.cfg state, exec_presence state s, fun h => presenceOf_ge2 h state, fun h => presenceOf_ne0 h state⟩

/-! ### DECODE_MIN -/

/-- DECODE_MIN of a whole window: its two markers decide between `FormatError` and the record (R121). -/
theorem decodeMinWindow_eq (c : Config) (w0 w1 w2 w3 w4 : Byte) :
    decodeMinWindow c [w0, w1, w2, w3, w4] = .ok (if w0 ≠ 0x6E ∨ w4 ≠ 0x62 then none
      else some { state := w1, presence := presenceBit c w1, distanceCm := word16 (u16le w2 w3) }) := by
  have hmarkers : ([w0] ≠ markerBytes .minStart ∨ [w4] ≠ markerBytes .minEnd) ↔ (w0 ≠ 0x6E ∨ w4 ≠ 0x62) := by
    simp [markerBytes]
  by_cases hbad : w0 ≠ 0x6E ∨ w4 ≠ 0x62
  · rw [if_pos hbad]
    exact if_pos (hmarkers.mpr hbad)
  · rw [if_neg hbad, ← presenceOf_eq_presenceBit]
    exact if_neg (hmarkers.not.mpr hbad)

theorem exec_decodeMin_of_window {w : List Byte} {s : State} {r : Option TlmMin}
    (h : decodeMinWindow s.cfg w = .ok r) :
    exec (.decodeMin w) s = .next { s with events := [], result := r.elim .formatError .tlmMin } := by
  show execDecodeMin w s = _
  rw [execDecodeMin, h]
  cases r <;> rfl

theorem exec_decodeMin (w0 w1 w2 w3 w4 : Byte) (s : State) :
    exec (.decodeMin [w0, w1, w2, w3, w4]) s = .next { s with
      events := []
      result := if w0 ≠ 0x6E ∨ w4 ≠ 0x62 then .formatError
        else .tlmMin { state := w1, presence := presenceBit s.cfg w1, distanceCm := word16 (u16le w2 w3) } } := by
  rw [exec_decodeMin_of_window (decodeMinWindow_eq s.cfg w0 w1 w2 w3 w4),
    apply_ite fun r => Option.elim r OpResult.formatError OpResult.tlmMin]
  rfl

/-- Settles O12: the round trip is the accepting case, whose distance bytes are the two halves of a word. -/
theorem decodeMinReadsTheWindow : Obligations.DecodeMinReadsTheWindow := by
  constructor
  · exact fun w0 w1 w2 w3 w4 s => ⟨word16 (u16le w2 w3), word16_u16le_toNat w2 w3, exec_decodeMin w0 w1 w2 w3 w4 s⟩
  · intro state d s
    rw [exec_decodeMin, if_neg (by decide), word16_bytesLe]

/-! ### DECODE_STD -/

/-- A read that starts behind `pre` and is as long as `mid` is `mid`. -/
theorem memRead_append_middle {pre mid post : List Byte} {off n : Nat} (hoff : off = pre.length)
    (hn : n = mid.length) : memRead (pre ++ mid ++ post) off n = .ok mid := by
  subst hoff hn
  rw [memRead_eq_ok (by simp), List.append_assoc, List.drop_left, List.take_left]

/-- The parts of a window DECODE_STD reads at once: the start marker, the energies, and the end marker. -/
theorem memRead_stdWindow {c : Config} {header energy tail4 : List Byte} (hheader : header.length = 13)
    (henergy : energy.length = c.maxGates) (htail : tail4.length = 4) :
    memRead (header ++ energy ++ tail4) 0 4 = .ok (header.take 4) ∧
    memRead (header ++ energy ++ tail4) 13 c.maxGates = .ok energy ∧
    memRead (header ++ energy ++ tail4) (13 + c.maxGates) 4 = .ok tail4 := by
  refine ⟨?_, memRead_append_middle hheader.symm henergy.symm, ?_⟩
  · rw [memRead_eq_ok (by simp; omega), List.drop_zero, List.append_assoc, List.take_append_of_le_length (by omega)]
  · rw [← List.append_nil (header ++ energy ++ tail4)]
    exact memRead_append_middle (by rw [List.length_append, hheader, henergy]) htail.symm

/-- DECODE_STD of a whole window: its two markers and the length field decide between `FormatError` and the record
(R122). -/
theorem decodeStdWindow_eq {c : Config} {start4 tail4 energy : List Byte} (l0 l1 ft st m0 m1 n0 n1 res : Byte)
    (hstart : start4.length = 4) (htail : tail4.length = 4) (henergy : energy.length = c.maxGates) :
    decodeStdWindow c (start4 ++ [l0, l1, ft, st, m0, m1, n0, n1, res] ++ energy ++ tail4) =
      .ok (if start4 ≠ [0xF4, 0xF3, 0xF2, 0xF1] ∨ u16std c l0 l1 ≠ 7 + c.maxGates ∨
          tail4 ≠ [0xF8, 0xF7, 0xF6, 0xF5] then none
        else some { frameType := ft, state := st, presence := presenceBit c st, movingCm := word16 (u16std c m0 m1),
                    stationaryCm := word16 (u16std c n0 n1), reserved := res, energy := energy }) := by
  match start4, hstart with
  | [s0, s1, s2, s3], _ =>
    obtain ⟨hreadStart, hreadEnergy, hreadTail⟩ := memRead_stdWindow (c := c) (tail4 := tail4)
      (header := [s0, s1, s2, s3] ++ [l0, l1, ft, st, m0, m1, n0, n1, res]) rfl henergy htail
    simp only [decodeStdWindow, hreadStart, hreadEnergy, hreadTail, bind, Except.bind]
    by_cases hbad : [s0, s1, s2, s3] ≠ [0xF4, 0xF3, 0xF2, 0xF1] ∨ u16std c l0 l1 ≠ 7 + c.maxGates ∨
        tail4 ≠ [0xF8, 0xF7, 0xF6, 0xF5]
    · rw [if_pos hbad]
      exact if_pos hbad
    · rw [if_neg hbad, ← presenceOf_eq_presenceBit]
      exact if_neg hbad

theorem exec_decodeStd_of_window {w : List Byte} {s : State} {r : Option TlmStd}
    (h : decodeStdWindow s.cfg w = .ok r) :
    exec (.decodeStd w) s = .next { s with events := [], result := r.elim .formatError .tlmStd } := by
  show execDecodeStd w s = _
  rw [execDecodeStd, h]
  cases r <;> rfl

/-- Settles O13, by the parts the window is read in; every 2-byte distance fits its word. -/
theorem decodeStdReadsTheWindow : Obligations.DecodeStdReadsTheWindow := by
  intro start4 tail4 energy l0 l1 ft st m0 m1 n0 n1 res s hstart htail henergy
  refine ⟨word16 (u16std s.cfg m0 m1), word16 (u16std s.cfg n0 n1), word16_u16std_toNat s.cfg m0 m1,
    word16_u16std_toNat s.cfg n0 n1, ?_⟩
  rw [exec_decodeStd_of_window (decodeStdWindow_eq l0 l1 ft st m0 m1 n0 n1 res hstart htail henergy),
    apply_ite fun r => Option.elim r OpResult.formatError OpResult.tlmStd]
  rfl

end Sys2Proof.Proofs
end

section
/-! The Stream Synchronizer: FEED appends or truncates (42_stream_synchronizer.md R141), and RX is FEED and then DRAIN
(R150). The events an operation has emitted so far are never read again, so DRAIN run behind FEED appends its own to
those of FEED. -/

namespace Sys2Proof.Proofs

open Sys2Proof.Machine

/-! ### FEED -/

theorem exec_feed (b : Byte) (s : State) : exec (.feed b) s = .next (feed b s.opStart) := rfl

/-- On a full buffer FEED removes all but `K = markerMax` of the `CAP + 1` bytes: the 3 newest old bytes and the new one
stay. -/
theorem feed_of_full {b : Byte} {s : State} (hwf : s.cfg.Wf) (hfull : s.buf.length = s.cfg.cap) :
    feed b s = { s with
      buf := s.buf.drop (s.cfg.cap - 3) ++ [b], pos := s.pos + (s.cfg.cap + 1 - 4)
      events := s.events ++ [.diag .overflow] } := by
  have hcap := hwf.cap_cfg
  rcases feed_cases b s with ⟨hroom, -⟩ | ⟨-, hfeed⟩
  · exact absurd hfull (Nat.ne_of_lt hroom)
  · have hbuf : (s.buf ++ [b]).drop (s.cfg.cap + 1 - 4) = s.buf.drop (s.cfg.cap - 3) ++ [b] :=
      List.drop_append_of_le_length (by omega)
    have hpos : min (s.cfg.cap + 1 - 4) (s.buf ++ [b]).length = s.cfg.cap + 1 - 4 := by
      rw [List.length_append]; omega
    simp only [hfeed, State.emit, State.removePrefix, State.appendByte, markerMax, hfull, hbuf, hpos]

theorem exec_feed_of_full {b : Byte} {s : State} (hwf : s.cfg.Wf) (hfull : s.buf.length = s.cfg.cap) :
    exec (.feed b) s = .next { s with
      buf := s.buf.drop (s.cfg.cap - 3) ++ [b], pos := s.pos + (s.cfg.cap + 1 - 4)
      events := [.diag .overflow], result := .none } := by
  rw [exec_feed, feed_of_full (s := s.opStart) hwf hfull]; rfl

/-- Settles O15, by the two branches of FEED. -/
theorem feedAppendsOrTruncates : Obligations.FeedAppendsOrTruncates := fun _ _ hwf =>
  ⟨exec_feed_of_room, exec_feed_of_full hwf⟩

theorem feed_result (b : Byte) (s : State) : (feed b s).result = s.result := by
  rcases feed_cases b s with ⟨-, h⟩ | ⟨-, h⟩
  · rw [h, State.appendByte_result]
  · rw [h, State.emit_result, State.removePrefix_result, State.appendByte_result]

/-! ### Events emitted before an operation -/

/-- The state in which the events `es` had been emitted before those of `s`. -/
def prependEvents (es : List Event) (s : State) : State := { s with events := es ++ s.events }

/-- A state between two parts of an operation is the start of the second part behind the events of the first. -/
theorem prependEvents_opStart {s : State} (h : s.result = .none) : prependEvents s.events s.opStart = s := by
  simp only [prependEvents, State.opStart, List.append_nil, ← h]

@[simp] theorem prependEvents_cfg (es : List Event) (s : State) : (prependEvents es s).cfg = s.cfg := rfl
@[simp] theorem prependEvents_buf (es : List Event) (s : State) : (prependEvents es s).buf = s.buf := rfl
@[simp] theorem prependEvents_hs (es : List Event) (s : State) : (prependEvents es s).hs = s.hs := rfl
@[simp] theorem prependEvents_pExpect (es : List Event) (s : State) : (prependEvents es s).pExpect = s.pExpect := rfl
@[simp] theorem prependEvents_pChk (es : List Event) (s : State) : (prependEvents es s).pChk = s.pChk := rfl
@[simp] theorem prependEvents_family (es : List Event) (s : State) : (prependEvents es s).family = s.family := rfl

@[simp] theorem removePrefix_prependEvents (es : List Event) (s : State) (n : Nat) :
    (prependEvents es s).removePrefix n = prependEvents es (s.removePrefix n) := rfl

@[simp] theorem emit_prependEvents (es : List Event) (s : State) (e : Event) :
    (prependEvents es s).emit e = prependEvents es (s.emit e) := by
  simp only [prependEvents, State.emit, List.append_assoc]

@[simp] theorem scanned_prependEvents (es : List Event) (s : State) (n : Nat) (evs : List Event) :
    (prependEvents es s).scanned n evs = prependEvents es (s.scanned n evs) := by
  simp only [State.scanned, State.emitAll, State.removePrefix, prependEvents, List.append_assoc]

/-! ### The operations of DRAIN read no event -/

/-- EXTRACT decides on the buffer and the parameters; a false candidate costs a byte and appends a diagnostic. -/
theorem extractLoop_prependEvents (f : Family) (es : List Event) : ∀ (fuel : Nat) (s : State),
    extractLoop f fuel (prependEvents es s) = Prod.map (prependEvents es) id <$> extractLoop f fuel s := by
  intro fuel
  induction fuel with
  | zero => intro s; rfl
  | succ fuel ih =>
    intro s
    simp only [extractLoop, prependEvents_buf]
    cases firstMatch s.buf (startMarker f) with
    | none => rfl
    | some i =>
      simp only [removePrefix_prependEvents, prependEvents_buf, prependEvents_cfg, map_bind]
      congr 1
      funext header
      cases header with
      | needMore => rfl
      | bad => simp only [State.raise_formatError_eq, scanned_prependEvents, ih]
      | total T =>
        by_cases hshort : (s.removePrefix i).buf.length < T
        · simp only [hshort, if_true]; rfl
        · simp only [hshort, if_false, map_bind]
          congr 1
          funext w
          congr 1
          funext ok
          cases ok with
          | true => rfl
          | false => simp only [Bool.false_eq_true, if_false, State.raise_tailError_eq, scanned_prependEvents, ih]

theorem extract_prependEvents (es : List Event) (s : State) :
    extract (prependEvents es s) = Prod.map (prependEvents es) id <$> extract s :=
  extractLoop_prependEvents s.family es (s.buf.length + 1) s

/-- The reply parser decides on the handler and the pending command, and appends its events to those emitted. -/
theorem handleReply_prependEvents (cw : Word16) (p : List Byte) (es : List Event) (s : State) :
    handleReply cw p (prependEvents es s) = prependEvents es (handleReply cw p s) := by
  unfold handleReply accept
  simp only [prependEvents_hs, prependEvents_pExpect, prependEvents_pChk, prependEvents_cfg,
    apply_ite (prependEvents es), State.raise, ← emit_prependEvents]
  rfl

theorem dispatchFrame_prependEvents (f : Family) (w : List Byte) (es : List Event) (s : State) :
    dispatchFrame f w (prependEvents es s) = prependEvents es <$> dispatchFrame f w s := by
  cases f with
  | min =>
    simp only [dispatchFrame, prependEvents_cfg, map_bind, emit_prependEvents]
    congr 1
    funext r
    cases r <;> rfl
  | std =>
    simp only [dispatchFrame, prependEvents_cfg, map_bind, emit_prependEvents]
    congr 1
    funext r
    cases r <;> rfl
  | cfg =>
    simp only [dispatchFrame, handleCfg, map_bind, handleReply_prependEvents]
    rfl

theorem drainLoop_prependEvents (es : List Event) : ∀ (fuel : Nat) (s : State),
    drainLoop fuel (prependEvents es s) = prependEvents es <$> drainLoop fuel s := by
  intro fuel
  induction fuel with
  | zero => intro s; rfl
  | succ fuel ih =>
    intro s
    simp only [drainLoop, extract_prependEvents, map_bind, bind_map_left]
    congr 1
    funext ⟨t, r⟩
    cases r with
    | none => rfl
    | some w =>
      simp only [Prod.map, id, prependEvents_family, dispatchFrame_prependEvents, map_bind, bind_map_left, ih]

theorem drain_prependEvents (es : List Event) (s : State) :
    drain (prependEvents es s) = prependEvents es <$> drain s :=
  drainLoop_prependEvents es (s.buf.length + 1) s

/-! ### RX -/

theorem exec_rx_iff {b : Byte} {s t : State} : exec (.rx b) s = .next t ↔ drain (feed b s.opStart) = .ok t :=
  toOut_next

theorem exec_drain_iff {s t : State} : exec .drain s = .next t ↔ drain s.opStart = .ok t := toOut_next

/-- Settles O20: DRAIN behind FEED and DRAIN by itself start in states that differ in the events of FEED alone. -/
theorem rxIsFeedThenDrain : Obligations.RxIsFeedThenDrain := by
  intro b s t u v hrx hfeed hdrain
  rw [exec_feed, Host.Outcome.next.injEq] at hfeed
  rw [exec_rx_iff, hfeed] at hrx
  rw [exec_drain_iff] at hdrain
  have hresult : u.result = .none := by rw [← hfeed, feed_result, State.opStart_result]
  have hbehind : drain u = .ok (prependEvents u.events v) :=
    calc drain u = drain (prependEvents u.events u.opStart) := by rw [prependEvents_opStart hresult]
      _ = prependEvents u.events <$> drain u.opStart := drain_prependEvents _ _
      _ = .ok (prependEvents u.events v) := by rw [hdrain]; rfl
  exact Except.ok.inj (hrx.symm.trans hbehind)

end Sys2Proof.Proofs
end

section
/-! The Command/ACK Handler: CANCEL, XERR and HANDLE_CFG, each with the whole next state (43_command_ack.md R175, R176,
R180, R181). -/

namespace Sys2Proof.Proofs

open Sys2Proof.Machine

/-! ### CANCEL -/

theorem exec_cancel (s : State) : exec .cancel s = .next (cancel s.opStart) := rfl

theorem exec_cancel_of_sent {s : State} (hsent : s.hs = .sent) :
    exec .cancel s = .next { s with
      hs := .idle, failReason := .none, sess := .streaming, events := [], result := .none } := by
  rcases cancel_cases s.opStart with ⟨hnot, -⟩ | ⟨-, hcancel⟩
  · exact absurd hsent hnot
  · rw [exec_cancel, hcancel]; rfl

theorem exec_cancel_of_not_sent {s : State} (hnot : s.hs ≠ .sent) :
    exec .cancel s = .next { s with events := [], result := .none } := by
  rcases cancel_cases s.opStart with ⟨-, hcancel⟩ | ⟨hsent, -⟩
  · rw [exec_cancel, hcancel]; rfl
  · exact absurd hsent hnot

/-- Settles O32, by the two ways a CANCEL ends. -/
theorem cancelAbandonsOnlyAPendingCommand : Obligations.CancelAbandonsOnlyAPendingCommand := fun _ =>
  ⟨exec_cancel_of_sent, exec_cancel_of_not_sent⟩

/-! ### XERR -/

theorem exec_xerr (s : State) : exec .xerr s = .next (xerr s.opStart) := rfl

theorem exec_xerr_of_sent {s : State} (hsent : s.hs = .sent) :
    exec .xerr s = .next { s with
      buf := [], pos := s.pos + s.buf.length, hs := .failed, failReason := .transport, sess := .streaming
      events := [.cmdXerr], result := .none } := by
  rcases xerr_cases s.opStart with ⟨hnot, -⟩ | ⟨-, hxerr⟩
  · exact absurd hsent hnot
  · rw [exec_xerr, hxerr]; rfl

theorem exec_xerr_of_not_sent {s : State} (hnot : s.hs ≠ .sent) :
    exec .xerr s = .next { s with
      buf := [], pos := s.pos + s.buf.length, events := [], result := .none } := by
  rcases xerr_cases s.opStart with ⟨-, hxerr⟩ | ⟨hsent, -⟩
  · rw [exec_xerr, hxerr]; rfl
  · exact absurd hsent hnot

/-- Settles O33, by the two ways an XERR ends. -/
theorem transportErrorEmptiesTheBuffer : Obligations.TransportErrorEmptiesTheBuffer := fun _ =>
  ⟨exec_xerr_of_sent, exec_xerr_of_not_sent⟩

/-! ### HANDLE_CFG -/

/-- Settles O34: the fields read from a frame of the build are the word and payload it was built from, and the reply
parser does with them what the specification says. -/
theorem handleCfgParsesTheReply : Obligations.HandleCfgParsesTheReply := fun _ _ _ _ hframe =>
  exec_handleCfg_of_fields (cfgFields_of_encodeFrame hframe)

end Sys2Proof.Proofs
end

section
/-! The Session Controller: the select FAMILY, case by case along the mode and `tfam` (44_session_controller.md R201). -/

namespace Sys2Proof.Proofs

open Sys2Proof.Machine

theorem exec_family (s : State) : exec .family s = .next { s with events := [], result := .family s.family } := rfl

theorem family_of_streaming_min {s : State} (hsess : s.sess = .streaming) (htfam : s.tfam = .min) :
    s.family = .min := by
  rw [State.family, hsess, htfam]

theorem family_of_streaming_std {s : State} (hsess : s.sess = .streaming) (htfam : s.tfam = .std) :
    s.family = .std := by
  rw [State.family, hsess, htfam]

/-- The select is one of three, and each excludes the other two: the mode decides, then `tfam`. -/
theorem family_cases (s : State) :
    (s.sess ≠ .streaming ∧ s.family = .cfg) ∨
    (s.sess = .streaming ∧ s.tfam = .min ∧ s.family = .min) ∨
    (s.sess = .streaming ∧ s.tfam = .std ∧ s.family = .std) := by
  by_cases hsess : s.sess = .streaming
  · cases htfam : s.tfam with
    | min => exact .inr (.inl ⟨hsess, rfl, family_of_streaming_min hsess htfam⟩)
    | std => exact .inr (.inr ⟨hsess, rfl, family_of_streaming_std hsess htfam⟩)
  · exact .inl ⟨hsess, family_of_not_streaming hsess⟩

/-- Settles O6, by the three cases of the select: in each, one equivalence has both sides true and the other two both
sides false. -/
theorem familySelectsByModeAndTfam : Obligations.FamilySelectsByModeAndTfam := by
  intro s
  refine ⟨s.family, exec_family s, ?_⟩
  rcases family_cases s with ⟨hsess, hfam⟩ | ⟨hsess, htfam, hfam⟩ | ⟨hsess, htfam, hfam⟩
  · simp [hfam, hsess]
  · simp [hfam, hsess, htfam]
  · simp [hfam, hsess, htfam]

end Sys2Proof.Proofs
end

section
/-! The decoder of requests and the encoder agree (30_encoding.md R71 to R75, R81, R82, R88): each reader of Decode.lean
answers on the bytes of its rows and on no others. -/

namespace Sys2Proof.Proofs

open Sys2Proof.Machine

/-! ### ISSUE and the operations -/

theorem ofNat_toNat_self {w : Nat} (x : BitVec w) : BitVec.ofNat w x.toNat = x := by
  rw [BitVec.ofNat_toNat, BitVec.setWidth_eq]

theorem ofNat_toNat_cls (cls : BitVec 2) : (BitVec.ofNat 8 cls.toNat).toNat = cls.toNat := by
  have := cls.isLt
  simp only [BitVec.toNat_ofNat]; omega

/-- The operands of ISSUE are read exactly from their own bytes (R82). -/
theorem decodeIssue_eq_ok {bs r : List Byte} {i : Instr} :
    decodeIssue bs = .ok (i, r) ↔ ∃ cls cw ex chk p, i = .issue cls cw ex chk p ∧ p.length < 2 ^ 32 ∧
      byte 4 :: bs = encodeIssue cls cw ex chk p ++ r := by
  constructor
  · intro h
    obtain ⟨⟨k, bs1⟩, hk, h⟩ := bind_eq_ok.mp h
    rw [takeByte_eq_ok] at hk
    simp only at h
    split at h
    · cases h
    · rename_i hk4
      obtain ⟨⟨cw, bs2⟩, hcw, h⟩ := bind_eq_ok.mp h
      obtain ⟨⟨ex, bs3⟩, hex, h⟩ := bind_eq_ok.mp h
      obtain ⟨⟨chk, bs4⟩, hchk, h⟩ := bind_eq_ok.mp h
      obtain ⟨⟨n, bs5⟩, hn, h⟩ := bind_eq_ok.mp h
      obtain ⟨⟨p, bs6⟩, hp, h⟩ := bind_eq_ok.mp h
      dsimp only at hcw hex hchk hn hp h
      rw [takeWord_eq_ok] at hcw hex
      rw [takeBit_eq_ok] at hchk
      rw [takeN_eq_ok] at hn hp
      cases h
      obtain ⟨hlt, hlen⟩ := leValue_bytes32 n hn.2
      have hcls : BitVec.ofNat 8 (BitVec.ofNat 2 k.toNat).toNat = k := by
        apply BitVec.eq_of_toNat_eq
        simp only [BitVec.toNat_ofNat]; omega
      refine ⟨BitVec.ofNat 2 k.toNat, cw, ex, chk, p, rfl, by rw [hp.2]; exact hlt, ?_⟩
      rw [hk, hcw, hex, hchk, hn.1, hp.1, encodeIssue, hcls, hp.2, hlen]
      simp
  · rintro ⟨cls, cw, ex, chk, p, rfl, hlt, h⟩
    have hbs : bs = BitVec.ofNat 8 cls.toNat :: (bytesLe cw.toNat ++ (bytesLe ex.toNat ++
        bitByte chk :: (bytes32 p.length ++ (p ++ r)))) := by
      simpa [encodeIssue] using h
    have hk4 : ¬ 4 ≤ (BitVec.ofNat 8 cls.toNat).toNat := by rw [ofNat_toNat_cls]; have := cls.isLt; omega
    have hcls : BitVec.ofNat 2 (BitVec.ofNat 8 cls.toNat).toNat = cls := by
      rw [ofNat_toNat_cls]; exact ofNat_toNat_self cls
    refine bind_eq_ok.mpr ⟨_, takeByte_eq_ok.mpr hbs, ?_⟩
    simp only [if_neg hk4, hcls]
    exact bind_eq_ok.mpr ⟨_, takeWord_eq_ok.mpr rfl, bind_eq_ok.mpr ⟨_, takeWord_eq_ok.mpr rfl,
      bind_eq_ok.mpr ⟨_, takeBit_eq_ok.mpr rfl, bind_eq_ok.mpr ⟨_, takeN_eq_ok.mpr ⟨rfl, rfl⟩,
      bind_eq_ok.mpr ⟨_, takeN_eq_ok.mpr ⟨rfl, (bytes32_leValue _ hlt).symm⟩, rfl⟩⟩⟩⟩⟩

/-! ### Telemetry frames -/

theorem decodeTlmMin_eq_ok {bs r : List Byte} {i : Instr} :
    decodeTlmMin bs = .ok (i, r) ↔ ∃ st d, i = .tlmMin st d ∧ bs = tlmMinFrame st d ++ r := by
  constructor
  · intro h
    obtain ⟨bs1, h1, h⟩ := bind_eq_ok.mp h
    obtain ⟨⟨st, bs2⟩, h2, h⟩ := bind_eq_ok.mp h
    obtain ⟨⟨d, bs3⟩, h3, h⟩ := bind_eq_ok.mp h
    obtain ⟨bs4, h4, h⟩ := bind_eq_ok.mp h
    rw [expect_eq_ok] at h1 h4
    rw [takeByte_eq_ok] at h2
    rw [takeWord_eq_ok] at h3
    cases h
    exact ⟨st, d, rfl, by rw [h1, h2, h3, h4, tlmMinFrame]; simp⟩
  · rintro ⟨st, d, rfl, rfl⟩
    have hbs : tlmMinFrame st d ++ r = markerBytes .minStart ++ st :: (bytesLe d.toNat ++ (markerBytes .minEnd ++ r)) := by
      simp [tlmMinFrame]
    exact bind_eq_ok.mpr ⟨_, expect_eq_ok.mpr hbs, bind_eq_ok.mpr ⟨_, takeByte_eq_ok.mpr rfl,
      bind_eq_ok.mpr ⟨_, takeWord_eq_ok.mpr rfl, bind_eq_ok.mpr ⟨_, expect_eq_ok.mpr rfl, rfl⟩⟩⟩⟩

theorem word16_toNat_of_lt {n : Nat} (h : n < 65536) : (word16 n).toNat = n := by
  simp only [word16, BitVec.toNat_ofNat]; omega

theorem word16_toNat (d : Word16) : word16 d.toNat = d := ofNat_toNat_self d

theorem decodeTlmStd_sound {c : Config} {bs r : List Byte} {i : Instr} (h : decodeTlmStd c bs = .ok (i, r)) :
    ∃ ft st mov sta res e, i = .tlmStd ft st mov sta res e ∧ e.length = c.maxGates ∧
      bs = tlmStdFrame c ft st mov sta res e ++ r := by
  obtain ⟨bs1, h1, h⟩ := bind_eq_ok.mp h
  obtain ⟨⟨L, bs2⟩, h2, h⟩ := bind_eq_ok.mp h
  simp only at h
  split at h
  · cases h
  · rename_i hL
    obtain ⟨⟨ft, bs3⟩, h3, h⟩ := bind_eq_ok.mp h
    obtain ⟨⟨st, bs4⟩, h4, h⟩ := bind_eq_ok.mp h
    obtain ⟨⟨mov, bs5⟩, h5, h⟩ := bind_eq_ok.mp h
    obtain ⟨⟨sta, bs6⟩, h6, h⟩ := bind_eq_ok.mp h
    obtain ⟨⟨res, bs7⟩, h7, h⟩ := bind_eq_ok.mp h
    obtain ⟨⟨e, bs8⟩, h8, h⟩ := bind_eq_ok.mp h
    obtain ⟨bs9, h9, h⟩ := bind_eq_ok.mp h
    dsimp only at h4 h5 h6 h7 h8 h9 h
    have hmov := takeStd_lt h5
    have hsta := takeStd_lt h6
    rw [takeStd_eq_ok (takeStd_lt h2)] at h2
    rw [takeStd_eq_ok hmov] at h5
    rw [takeStd_eq_ok hsta] at h6
    rw [takeByte_eq_ok] at h3 h4 h7
    rw [takeN_eq_ok] at h8
    rw [expect_eq_ok] at h1 h9
    cases h
    refine ⟨ft, st, word16 mov, word16 sta, res, e, rfl, h8.2, ?_⟩
    rw [tlmStdFrame, word16_toNat_of_lt hmov, word16_toNat_of_lt hsta, h8.2, ← not_not.mp hL, h1, h2, h3, h4, h5, h6,
      h7, h8.1, h9]
    simp

theorem decodeTlmStd_complete {c : Config} (hc : c.Wf) (ft st : Byte) (mov sta : Word16) (res : Byte) {e : List Byte}
    (he : e.length = c.maxGates) (r : List Byte) :
    decodeTlmStd c (tlmStdFrame c ft st mov sta res e ++ r) = .ok (.tlmStd ft st mov sta res e, r) := by
  have hG : 7 + c.maxGates < 65536 := by have := hc.cap_std; have := hc.cap_max; omega
  have hbs : tlmStdFrame c ft st mov sta res e ++ r = markerBytes .stdStart ++ (bytesStd c (7 + c.maxGates) ++
      ft :: st :: (bytesStd c mov.toNat ++ (bytesStd c sta.toNat ++ res :: (e ++ (markerBytes .stdEnd ++ r))))) := by
    simp [tlmStdFrame, he]
  refine bind_eq_ok.mpr ⟨_, expect_eq_ok.mpr hbs, bind_eq_ok.mpr ⟨_, (takeStd_eq_ok hG).mpr rfl, ?_⟩⟩
  simp only [ne_eq, not_true_eq_false, if_false]
  exact bind_eq_ok.mpr ⟨_, takeByte_eq_ok.mpr rfl, bind_eq_ok.mpr ⟨_, takeByte_eq_ok.mpr rfl,
    bind_eq_ok.mpr ⟨_, (takeStd_eq_ok mov.isLt).mpr rfl, bind_eq_ok.mpr ⟨_, (takeStd_eq_ok sta.isLt).mpr rfl,
    bind_eq_ok.mpr ⟨_, takeByte_eq_ok.mpr rfl, bind_eq_ok.mpr ⟨_, takeN_eq_ok.mpr ⟨rfl, he⟩,
    bind_eq_ok.mpr ⟨_, expect_eq_ok.mpr rfl, by rw [word16_toNat, word16_toNat]⟩⟩⟩⟩⟩⟩⟩

/-! ### Configuration frames -/

theorem decodeCfgEnd_eq_ok {c : Config} {cw : Word16} {p bs r : List Byte} {i : Instr} :
    decodeCfgEnd c cw p bs = .ok (i, r) ↔
      (c.cfgTerm = .marker ∧ i = .cfgFrame cw p ∧ bs = markerBytes .cfgEnd ++ r) ∨
      (c.cfgTerm = .checksum ∧ i = .cfgFrameCk cw p ∧ bs = checksumOf (cfgBody cw p) :: r) := by
  unfold decodeCfgEnd
  cases c.cfgTerm with
  | marker =>
    simp only [bind_eq_ok, expect_eq_ok, Except.ok.injEq, Prod.mk.injEq, true_and, reduceCtorEq, false_and, or_false]
    constructor
    · rintro ⟨_, h, rfl, rfl⟩; exact ⟨rfl, h⟩
    · rintro ⟨rfl, h⟩; exact ⟨_, h, rfl, rfl⟩
  | checksum =>
    simp only [bind_eq_ok, true_and, reduceCtorEq, false_and, false_or]
    constructor
    · rintro ⟨⟨k, bs'⟩, h, h'⟩
      rw [takeByte_eq_ok] at h
      dsimp only at h'
      split at h'
      · rename_i hk
        cases h'
        exact ⟨rfl, by rw [h, ← hk]⟩
      · cases h'
    · rintro ⟨rfl, h⟩
      exact ⟨_, takeByte_eq_ok.mpr h, if_pos rfl⟩

/-- The total length R80 admits, in terms of the payload. -/
theorem cfgTotal_payload (c : Config) (n : Nat) :
    cfgTotal c (2 + n) = match c.cfgTerm with | .marker => 12 + n | .checksum => 9 + n := by
  unfold cfgTotal
  cases c.cfgTerm <;> simp only <;> omega

theorem decodeCfg_sound {c : Config} {bs r : List Byte} {i : Instr} (h : decodeCfg c bs = .ok (i, r)) :
    ∃ cw p,
      (c.cfgTerm = .marker ∧ 12 + p.length ≤ c.cap ∧ i = .cfgFrame cw p ∧ bs = cfgFrameMarker cw p ++ r) ∨
      (c.cfgTerm = .checksum ∧ 9 + p.length ≤ c.cap ∧ i = .cfgFrameCk cw p ∧ bs = cfgFrameChecksum cw p ++ r) := by
  obtain ⟨bs1, h1, h⟩ := bind_eq_ok.mp h
  obtain ⟨⟨lw, bs2⟩, h2, h⟩ := bind_eq_ok.mp h
  simp only at h
  split at h
  · cases h
  · rename_i hL
    obtain ⟨⟨cw, bs3⟩, h3, h⟩ := bind_eq_ok.mp h
    obtain ⟨⟨p, bs4⟩, h4, h⟩ := bind_eq_ok.mp h
    dsimp only at h4 h
    rw [expect_eq_ok] at h1
    rw [takeWord_eq_ok] at h2 h3
    rw [takeN_eq_ok] at h4
    obtain ⟨h4, hp⟩ := h4
    have hlw : lw.toNat = 2 + p.length := by omega
    have hcap := cfgTotal_payload c p.length
    rw [hlw] at hL
    have hbody : bs = cfgBody cw p ++ bs4 := by
      rw [cfgBody, ← hlw, h1, h2, h3, h4]; simp
    refine ⟨cw, p, ?_⟩
    rcases decodeCfgEnd_eq_ok.mp h with ⟨hterm, rfl, rfl⟩ | ⟨hterm, rfl, rfl⟩
    · rw [hterm] at hcap
      exact .inl ⟨hterm, by simp only at hcap; omega, rfl, by rw [hbody, cfgFrameMarker, List.append_assoc]⟩
    · rw [hterm] at hcap
      exact .inr ⟨hterm, by simp only at hcap; omega, rfl, by rw [hbody, cfgFrameChecksum, List.append_assoc]; rfl⟩

theorem decodeCfg_complete {c : Config} (hc : c.Wf) {bs r : List Byte} {i : Instr} {cw : Word16} {p : List Byte}
    (h : (c.cfgTerm = .marker ∧ 12 + p.length ≤ c.cap ∧ i = .cfgFrame cw p ∧ bs = cfgFrameMarker cw p ++ r) ∨
      (c.cfgTerm = .checksum ∧ 9 + p.length ≤ c.cap ∧ i = .cfgFrameCk cw p ∧ bs = cfgFrameChecksum cw p ++ r)) :
    decodeCfg c bs = .ok (i, r) := by
  obtain ⟨tl, hend, hbs, hcap⟩ : ∃ tl, decodeCfgEnd c cw p tl = .ok (i, r) ∧ bs = cfgBody cw p ++ tl ∧
      cfgTotal c (2 + p.length) ≤ c.cap := by
    rw [cfgTotal_payload]
    rcases h with ⟨hterm, hcap, rfl, rfl⟩ | ⟨hterm, hcap, rfl, rfl⟩
    · exact ⟨_, decodeCfgEnd_eq_ok.mpr (.inl ⟨hterm, rfl, rfl⟩), by rw [cfgFrameMarker, List.append_assoc],
        by rw [hterm]; exact hcap⟩
    · exact ⟨_, decodeCfgEnd_eq_ok.mpr (.inr ⟨hterm, rfl, rfl⟩), by rw [cfgFrameChecksum, List.append_assoc]; rfl,
        by rw [hterm]; exact hcap⟩
  have hlt : 2 + p.length < 65536 := by
    have := hc.cap_max
    rw [cfgTotal_payload] at hcap
    split at hcap <;> omega
  have hL : (word16 (2 + p.length)).toNat = 2 + p.length := word16_toNat_of_lt hlt
  have hbs' : bs = markerBytes .cfgStart ++ (bytesLe (word16 (2 + p.length)).toNat ++
      (bytesLe cw.toNat ++ (p ++ tl))) := by
    rw [hbs, cfgBody, hL]; simp
  refine bind_eq_ok.mpr ⟨_, expect_eq_ok.mpr hbs', bind_eq_ok.mpr ⟨_, takeWord_eq_ok.mpr rfl, ?_⟩⟩
  simp only [hL]
  rw [if_neg (by omega)]
  exact bind_eq_ok.mpr ⟨_, takeWord_eq_ok.mpr rfl, bind_eq_ok.mpr ⟨_, takeN_eq_ok.mpr ⟨rfl, by omega⟩, hend⟩⟩

/-! ### All requests -/

/-- A request: well-formed, an operation or a frame, and what its own bytes are read as. -/
def IsRequest (c : Config) (i : Instr) (head : List Byte) : Prop :=
  i.wellFormed c = true ∧ (i.format = .op ∨ i.format = .frame) ∧ encode c i = some head

theorem decodeOp_sound {c : Config} {b : Byte} {bs r : List Byte} {i : Instr} (hb : b.toNat < 16)
    (h : decodeOp b.toNat bs = .ok (i, r)) : ∃ head, IsRequest c i head ∧ b :: bs = head ++ r := by
  have hcode : ∀ n, b.toNat = n → b = byte n := fun n hn => hn ▸ (ofNat_toNat_self b).symm
  unfold decodeOp at h
  split at h
  case h_1 hn => cases h; exact ⟨_, ⟨rfl, .inl rfl, rfl⟩, by rw [hcode _ hn]; rfl⟩
  case h_2 hn =>
    obtain ⟨⟨x, bs'⟩, hx, h⟩ := bind_eq_ok.mp h
    rw [takeByte_eq_ok] at hx
    cases h; exact ⟨_, ⟨rfl, .inl rfl, rfl⟩, by rw [hcode _ hn, hx]; rfl⟩
  case h_3 hn => cases h; exact ⟨_, ⟨rfl, .inl rfl, rfl⟩, by rw [hcode _ hn]; rfl⟩
  case h_4 hn => cases h; exact ⟨_, ⟨rfl, .inl rfl, rfl⟩, by rw [hcode _ hn]; rfl⟩
  case h_5 hn =>
    obtain ⟨cls, cw, ex, chk, p, rfl, hlt, hbs⟩ := decodeIssue_eq_ok.mp h
    exact ⟨_, ⟨decide_eq_true hlt, .inl rfl, rfl⟩, by rw [hcode _ hn, hbs]⟩
  case h_6 hn => cases h; exact ⟨_, ⟨rfl, .inl rfl, rfl⟩, by rw [hcode _ hn]; rfl⟩
  case h_7 hn => cases h; exact ⟨_, ⟨rfl, .inl rfl, rfl⟩, by rw [hcode _ hn]; rfl⟩
  case h_8 hn =>
    obtain ⟨⟨m, bs'⟩, hm, h⟩ := bind_eq_ok.mp h
    rw [takeBit_eq_ok] at hm
    cases h
    refine ⟨_, ⟨rfl, .inl rfl, rfl⟩, ?_⟩
    rw [hcode _ hn, hm]
    cases m <;> rfl
  case h_9 hn => cases h; exact ⟨_, ⟨rfl, .inl rfl, rfl⟩, by rw [hcode _ hn]; rfl⟩
  case h_10 h0 h1 h2 h3 h4 h5 h6 h7 h15 =>
    cases h
    have hlo : (BitVec.ofNat 4 b.toNat).toNat = b.toNat := by simp only [BitVec.toNat_ofNat]; omega
    refine ⟨[b], ⟨?_, .inl rfl, ?_⟩, rfl⟩
    · have hne : ∀ n, (b.toNat = n → False) → b.toNat ≠ n := fun _ h => h
      simp only [Instr.wellFormed, hlo, Bool.and_eq_true, decide_eq_true_eq]
      have := hne 0 h0; have := hne 1 h1; have := hne 2 h2; have := hne 3 h3; have := hne 4 h4
      have := hne 5 h5; have := hne 6 h6; have := hne 7 h7; have := hne 15 h15
      omega
    · simp only [encode, hlo, ofNat_toNat_self]

/-- Bytes that decode begin with the bytes of a request, and the request is what they decode to. -/
theorem decode_sound {c : Config} {bytes r : List Byte} {i : Instr} (h : decode c bytes = .ok (i, r)) :
    ∃ head, IsRequest c i head ∧ bytes = head ++ r := by
  unfold decode at h
  split at h
  · cases h
  · rename_i b bs
    split_ifs at h with hop hmin hstd hcfg
    · exact decodeOp_sound hop h
    · obtain ⟨st, d, rfl, hbs⟩ := decodeTlmMin_eq_ok.mp h
      exact ⟨_, ⟨rfl, .inr rfl, rfl⟩, hbs⟩
    · obtain ⟨ft, st, mov, sta, res, e, rfl, he, hbs⟩ := decodeTlmStd_sound h
      exact ⟨_, ⟨decide_eq_true he, .inr rfl, rfl⟩, hbs⟩
    · obtain ⟨cw, p, ⟨hterm, hcap, rfl, hbs⟩ | ⟨hterm, hcap, rfl, hbs⟩⟩ := decodeCfg_sound h
      · exact ⟨_, ⟨by simp [Instr.wellFormed, hterm, hcap], .inr rfl, rfl⟩, hbs⟩
      · exact ⟨_, ⟨by simp [Instr.wellFormed, hterm, hcap], .inr rfl, rfl⟩, hbs⟩

theorem decode_operation {c : Config} {b : Byte} (h : b.toNat < 16) (bs : List Byte) :
    decode c (b :: bs) = decodeOp b.toNat bs := if_pos h

theorem decodeOp_reserved {code : BitVec 4} (hlo : 8 ≤ code.toNat) (hhi : code.toNat ≤ 14) (bs : List Byte) :
    decodeOp code.toNat bs = .ok (.reservedOp code, bs) := by
  unfold decodeOp
  split
  case h_10 => rw [ofNat_toNat_self]
  all_goals omega

/-- The bytes of a request are read as that request, whatever follows them. -/
theorem decode_of_isRequest {c : Config} (hc : c.Wf) {i : Instr} {head : List Byte} (h : IsRequest c i head)
    (r : List Byte) : decode c (head ++ r) = .ok (i, r) := by
  obtain ⟨hwf, hfmt, henc⟩ := h
  cases i
  case tlmMin st d => cases henc; exact decodeTlmMin_eq_ok.mpr ⟨st, d, rfl, rfl⟩
  case tlmStd ft st mov sta res e =>
    cases henc
    exact decodeTlmStd_complete hc ft st mov sta res (of_decide_eq_true hwf) r
  case cfgFrame cw p =>
    cases henc
    simp only [Instr.wellFormed, Bool.and_eq_true, decide_eq_true_eq] at hwf
    exact decodeCfg_complete hc (.inl ⟨hwf.1, hwf.2, rfl, rfl⟩)
  case cfgFrameCk cw p =>
    cases henc
    simp only [Instr.wellFormed, Bool.and_eq_true, decide_eq_true_eq] at hwf
    exact decodeCfg_complete hc (.inr ⟨hwf.1, hwf.2, rfl, rfl⟩)
  case issue cls cw ex chk p =>
    cases henc
    exact decodeIssue_eq_ok.mpr ⟨cls, cw, ex, chk, p, rfl, of_decide_eq_true hwf, rfl⟩
  case reservedOp code =>
    cases henc
    have hlo : (BitVec.ofNat 8 code.toNat).toNat = code.toNat := by
      have := code.isLt
      simp only [BitVec.toNat_ofNat]; omega
    simp only [Instr.wellFormed, Bool.and_eq_true, decide_eq_true_eq] at hwf
    rw [List.singleton_append, decode_operation (by omega), hlo, decodeOp_reserved hwf.1 hwf.2]
  case setTfam m => cases henc; cases m <;> rfl
  all_goals first | (cases henc; rfl) | simp [Instr.format] at hfmt

/-- Settles O57, by reading each request back. -/
theorem encodeInvertsDecode : Obligations.EncodeInvertsDecode := by
  intro c i bytes rest _ h
  obtain ⟨head, ⟨hwf, hfmt, henc⟩, hbytes⟩ := decode_sound h
  exact ⟨hwf, hfmt, head, henc, hbytes⟩

/-! ### Commands -/

theorem isRequest_commandIssue {c : Config} {m : Command} {p : List Byte} (hp : payloadFits p = true) :
    IsRequest c (commandIssue c m p) (encodeCommand c m p) := ⟨hp, .inl rfl, rfl⟩

theorem wellFormed_of_command {c : Config} {i : Instr} {m : Command} {p : List Byte} (h : i.command? = some (m, p)) :
    i.wellFormed c = payloadFits p ∧ encode c i = some (encodeCommand c m p) := by
  cases i <;> first | (cases h; exact ⟨rfl, rfl⟩) | cases h

/-- What has bytes and is no command is an operation or a frame (R88). -/
theorem format_of_encode {c : Config} {i : Instr} {bytes : List Byte} (henc : encode c i = some bytes)
    (hcmd : i.command? = none) : i.format = .op ∨ i.format = .frame := by
  cases i <;> simp_all [encode, Instr.command?, Instr.format]

/-- A well-formed instruction with bytes stands for a request with the same bytes: a command for its ISSUE, every other
for itself. -/
theorem isRequest_canonical {c : Config} {i : Instr} {bytes : List Byte} (hwf : i.wellFormed c = true)
    (henc : encode c i = some bytes) : IsRequest c (i.canonical c) bytes := by
  unfold Instr.canonical
  split
  · rename_i m p hcmd
    obtain ⟨hfits, hbytes⟩ := wellFormed_of_command (c := c) hcmd
    rw [hbytes, Option.some.injEq] at henc
    exact henc ▸ isRequest_commandIssue (hfits ▸ hwf)
  · rename_i hcmd
    exact ⟨hwf, format_of_encode henc hcmd, henc⟩

/-- Settles O56: the bytes are those of the request the instruction stands for. -/
theorem decodeInvertsEncode : Obligations.DecodeInvertsEncode := fun _ _ _ rest hc hwf henc =>
  decode_of_isRequest hc (isRequest_canonical hwf henc) rest

/-- Settles O58, by evaluation of the decoder. -/
theorem someWordsDecode : Obligations.SomeWordsDecode := by
  unfold Obligations.SomeWordsDecode
  decide

end Sys2Proof.Proofs
end

section
/-! The step function and the operations that end in one equation: NOP, the reserved codes, RESET, SET_TFAM, ISSUE and
the 13 commands, TICK, and the sink calls of an event (30_encoding.md R81, R85 to R87; 43_command_ack.md R172, R178;
44_session_controller.md R207; 70_reset_and_hazards.md R270; 41_telemetry_decoder.md R126). -/

namespace Sys2Proof.Proofs

open Sys2Proof.Machine Sys2Proof.Spec

/-! ### The step function -/

theorem decode_nil (c : Config) : decode c [] = .error .empty := rfl

theorem step_of_idle {s : State} (h : s.inq = []) : step s = .next s.opStart := by
  show stepOf s = _
  rw [stepOf, fetch, h]

theorem step_of_decode {s : State} {i : Instr} {rest : List Byte} (h : decode s.cfg s.inq = .ok (i, rest)) :
    step s = exec i (s.dequeue rest) := by
  show stepOf s = _
  cases hq : s.inq with
  | nil => rw [hq, decode_nil] at h; cases h
  | cons b bs => simp only [stepOf, fetch, hq]; rw [← hq, h]

theorem step_of_error {s : State} {e : DecodeError} (hne : s.inq ≠ []) (h : decode s.cfg s.inq = .error e) :
    step s = .refused (.noRequest e) := by
  show stepOf s = _
  cases hq : s.inq with
  | nil => exact absurd hq hne
  | cons b bs => simp only [stepOf, fetch, hq]; rw [← hq, h]

/-- Settles O54, by the three things that can stand at the head of the queue. -/
theorem stepRunsTheNextRequest : Obligations.StepRunsTheNextRequest := fun _ =>
  ⟨fun _ _ h => step_of_decode h, fun h => step_of_idle h, fun hne _ h => step_of_error hne h⟩

/-! ### NOP, the reserved codes, RESET and SET_TFAM -/

theorem exec_reservedOp (code : BitVec 4) (s : State) :
    exec (.reservedOp code) s = .next { s with events := [], result := .illegalOp } := rfl

theorem exec_reset (s : State) : exec .reset s = .next (resetBlock s) := rfl

/-- Settles O2: the meaning is the start of an operation and nothing else. -/
theorem nopChangesNothing : Obligations.NopChangesNothing := fun _ => rfl

/-- Settles O3: the decoder reads a reserved code from its own byte. -/
theorem reservedCodesAreIllegalOps : Obligations.ReservedCodesAreIllegalOps := by
  intro s code hlo hhi
  refine ⟨exec_reservedOp code s, fun rest hq => ?_⟩
  have hbyte : (BitVec.ofNat 8 code.toNat).toNat = code.toNat := by
    simp only [BitVec.toNat_ofNat]; omega
  have hdec : decode s.cfg s.inq = .ok (.reservedOp code, rest) := by
    rw [hq, decode_operation (by omega), hbyte, decodeOp_reserved hlo hhi]
  rw [step_of_decode hdec, exec_reservedOp]
  rfl

/-- Settles O4: the family while Streaming is the select of FAMILY. -/
theorem setTfamWritesOnlyTfam : Obligations.SetTfamWritesOnlyTfam := by
  intro s m
  refine ⟨rfl, fun hsess => ?_⟩
  cases m with
  | min => exact family_of_streaming_min hsess rfl
  | std => exact family_of_streaming_std hsess rfl

theorem quiescent_of_waiting {s : State} (h : Waiting s.cfg s.family s.buf) : Quiescent s :=
  ⟨s, extract_waiting h, rfl⟩

theorem priority_reset_lt {i : Instr} (h : i ≠ .reset) : priority .reset < priority i := by
  cases i <;> first | exact absurd rfl h | simp [priority]

/-- Settles O1: RESET builds its state from the reset values, and an empty buffer waits. -/
theorem resetLeavesTheSpecifiedValues : Obligations.ResetLeavesTheSpecifiedValues := by
  intro s
  refine ⟨resetBlock s, rfl, rfl, rfl, rfl, rfl, rfl, rfl, rfl, rfl, rfl, rfl, rfl, rfl, rfl, rfl, rfl, rfl, rfl, rfl,
    rfl, rfl, rfl, rfl, ?_, fun i => priority_reset_lt⟩
  exact quiescent_of_waiting (waiting_nil _ _)

/-! ### Sink calls -/

theorem gateCalls_eq_mapIdx (energy : List Byte) : ∀ g : Nat,
    gateCalls g energy = energy.mapIdx fun k e => .gateEnergy (g + k) e := by
  induction energy with
  | nil => intro g; rfl
  | cons e es ih =>
    intro g
    rw [gateCalls, ih, List.mapIdx_cons]
    simp only [Nat.add_zero, Nat.add_comm, Nat.add_left_comm]

/-- Settles O14: the gate numbers are the positions in the energy list. -/
theorem sinkCallsFollowTheEvents : Obligations.SinkCallsFollowTheEvents := by
  refine ⟨fun _ => rfl, fun r => ?_, fun e he => ?_⟩
  · simp only [sinkCalls, gateCalls_eq_mapIdx, Nat.zero_add]
  · cases e <;> first | rfl | cases he

/-! ### ISSUE and the commands -/

/-- The state an accepted ISSUE leaves (43_command_ack.md R172). -/
def issued (k : CmdClass) (cw ex : Word16) (chk : Bool) (frame : List Byte) (s : State) : State :=
  ((((s.emit .flushInput).clearBuf).emit (.tx frame)).recordCommand k cw ex chk).setResult .ok

theorem issue_accepted {s : State} {cls : BitVec 2} {k : CmdClass} {cw ex : Word16} {chk : Bool} {p frame : List Byte}
    (hs : s.hs ≠ .sent) (hcls : classOf cls = some k) (hp : p.length ≤ s.cfg.txPayloadMax)
    (henc : encodeFrame s.cfg cw p = some frame) : issue cls cw ex chk p s = issued k cw ex chk frame s := by
  simp only [issue, if_neg hs, hcls, henc, if_neg (Nat.not_lt.mpr hp), issued]

theorem classOf_classCode (k : CmdClass) : classOf (classCode k) = some k := by cases k <;> rfl

/-- Settles O26: the class operand names the class. -/
theorem issueSendsAndWaits : Obligations.IssueSendsAndWaits := by
  intro s cls k cw ex chk payload frame hs hcls hp henc
  rw [exec_issue, hcls, issue_accepted (s := s.opStart) hs (classOf_classCode k) hp henc]
  rfl

/-- The class of a command's row (30_encoding.md R86). -/
def rowClass : Command → CmdClass
  | .enterConfig => .enter
  | .exitConfig => .exit
  | .readFirmware | .writeSerial | .readSerial | .writeParams | .readParams | .writeTrigger | .readTrigger
  | .writeHold | .readHold | .autoThreshold | .switchOutput => .other

theorem classOf_commandClass (m : Command) : classOf (commandClass m) = some (rowClass m) := by cases m <;> rfl

theorem exec_command {i : Instr} {m : Command} {p : List Byte} (h : i.command? = some (m, p)) (s : State) :
    exec i s = .next (issueCommand m p s.opStart) := by
  cases i <;> first | (cases h; rfl) | cases h

theorem issueCommand_accepted {s : State} {m : Command} {p frame : List Byte} (hs : s.hs ≠ .sent)
    (hp : p.length ≤ s.cfg.txPayloadMax) (henc : encodeFrame s.cfg (s.cfg.word m) p = some frame) :
    issueCommand m p s = issued (rowClass m) (s.cfg.word m) (s.cfg.word m ||| s.cfg.replyFlag) (commandChk m) frame s :=
  issue_accepted hs (classOf_commandClass m) hp henc

/-- Settles O28: the 13 commands are one operation with the values of their rows. -/
theorem commandsIssueTheirRow : Obligations.CommandsIssueTheirRow := by
  intro s i m payload frame hcmd hs hp henc
  have hclass : rowClass m = if m = .enterConfig then .enter else if m = .exitConfig then .exit else .other := by
    cases m <;> rfl
  have hchk : commandChk m = !decide (m ∈ [.readFirmware, .readSerial, .readParams, .readTrigger, .readHold]) := by
    cases m <;> rfl
  rw [exec_command hcmd, issueCommand_accepted (s := s.opStart) hs hp henc, ← hclass, ← hchk]
  rfl

/-! ### TICK -/

theorem exec_tick (s : State) : exec .tick s = .next (tick s.opStart) := rfl

theorem tick_of_not_sent {s : State} (h : s.hs ≠ .sent) : tick s = s := if_neg h

theorem tick_counts {s : State} (hs : s.hs = .sent) (h2 : 2 ≤ s.tmoCnt) :
    tick s = { s with tmoCnt := s.tmoCnt - 1 } := by
  rcases tick_cases s with ⟨hn, -⟩ | ⟨-, -, ht⟩ | ⟨-, h0, -⟩
  · exact absurd hs hn
  · exact ht
  · omega

theorem tick_times_out {s : State} (hs : s.hs = .sent) (h1 : s.tmoCnt = 1) :
    tick s = { s with
      tmoCnt := 0, hs := .failed, failReason := .timeout, sess := .streaming
      events := s.events ++ [.cmdTimeout] } := by
  rcases tick_cases s with ⟨hn, -⟩ | ⟨-, h0, -⟩ | ⟨-, h0, ht⟩
  · exact absurd hs hn
  · omega
  · rw [ht, h0]; rfl

/-- Settles O29, by the three ways a TICK ends. -/
theorem tickCountsAndTimesOut : Obligations.TickCountsAndTimesOut := by
  intro s
  refine ⟨fun h => ?_, fun hs h2 => ?_, fun hs h1 => ?_⟩
  · rw [exec_tick, tick_of_not_sent (s := s.opStart) h]; rfl
  · rw [exec_tick, tick_counts (s := s.opStart) hs h2]; rfl
  · rw [exec_tick, tick_times_out (s := s.opStart) hs h1]; rfl

theorem runOps_append (is js : List Instr) : ∀ s : State,
    runOps (is ++ js) s = (runOps is s).bind (runOps js) := by
  induction is with
  | nil => intro s; rfl
  | cons i is ih =>
    intro s
    rw [List.cons_append, runOps, runOps]
    cases exec i s with
    | next t => exact ih t
    | fault f => rfl
    | refused r => rfl

/-- While the timer runs, TICKs only count it down (43_command_ack.md R178). -/
theorem runOps_ticks_counts (n : Nat) : ∀ s : State, s.hs = .sent → n + 1 < s.tmoCnt →
    runOps (ticks (n + 1)) s = some { s with tmoCnt := s.tmoCnt - (n + 1), events := [], result := .none } := by
  induction n with
  | zero =>
    intro s hs h
    have hx := (tickCountsAndTimesOut s).2.1 hs (by omega)
    simp only [ticks, List.replicate, runOps, hx]
  | succ n ih =>
    intro s hs h
    have hx := (tickCountsAndTimesOut s).2.1 hs (by omega)
    rw [ticks, List.replicate_succ, runOps, hx]
    refine (ih { s with tmoCnt := s.tmoCnt - 1, events := [], result := .none } hs (by simp only; omega)).trans ?_
    simp only [Nat.sub_sub, Nat.add_comm 1]

theorem runOps_ticks_times_out {s : State} (hs : s.hs = .sent) (h1 : 1 ≤ s.tmoCnt) :
    runOps (ticks s.tmoCnt) s = some { s with
      tmoCnt := 0, hs := .failed, failReason := .timeout, sess := .streaming
      events := [.cmdTimeout], result := .none } := by
  obtain ⟨n, hn⟩ : ∃ n, s.tmoCnt = n + 1 := ⟨s.tmoCnt - 1, by omega⟩
  cases n with
  | zero =>
    have hx := (tickCountsAndTimesOut s).2.2 hs hn
    simp only [hn, ticks, List.replicate, runOps, hx]
  | succ n =>
    have hx := (tickCountsAndTimesOut { s with tmoCnt := s.tmoCnt - (n + 1), events := [], result := .none }).2.2 hs
      (by simp only; omega)
    have hsplit : ticks s.tmoCnt = ticks (n + 1) ++ [.tick] := by
      rw [hn, ticks, List.replicate_succ', ticks]
    rw [hsplit, runOps_append, runOps_ticks_counts n s hs (by omega)]
    simp only [Option.bind, runOps, hx]

/-- Settles O30, by induction over the number of TICKs. -/
theorem timeoutAtTheLastTickOnly : Obligations.TimeoutAtTheLastTickOnly := by
  intro s hs h1
  refine ⟨fun n hn hlt => ?_, runOps_ticks_times_out hs h1⟩
  obtain ⟨m, rfl⟩ : ∃ m, n = m + 1 := ⟨n - 1, by omega⟩
  exact runOps_ticks_counts m s hs hlt

/-! ### Windows shorter than their readers (20_memory.md R50) -/

theorem byteAt_eq_error {m : List Byte} {i : Nat} (h : m.length ≤ i) : byteAt m i = .error .memRead := by
  simp only [byteAt, List.getElem?_eq_none h]

theorem memRead_eq_error {m : List Byte} {off n : Nat} (h : m.length < off + n) : memRead m off n = .error .memRead :=
  if_neg (by omega)

/-- A read can stop for one reason only. -/
theorem byteAt_cases (m : List Byte) (i : Nat) : (∃ b, byteAt m i = .ok b) ∨ byteAt m i = .error .memRead := by
  unfold byteAt
  cases m[i]? with
  | some b => exact .inl ⟨b, rfl⟩
  | none => exact .inr rfl

theorem memRead_cases (m : List Byte) (off n : Nat) :
    (∃ w, memRead m off n = .ok w) ∨ memRead m off n = .error .memRead := by
  unfold memRead
  split
  · exact .inl ⟨_, rfl⟩
  · exact .inr rfl

/-- What stops with `e` whatever a first read gives, where that read can stop with `e` only, stops with `e`. -/
theorem bind_eq_error {α β : Type} {e : Fault} {x : Except Fault α} {f : α → Except Fault β}
    (hx : (∃ a, x = .ok a) ∨ x = .error e) (hf : ∀ a, x = .ok a → f a = .error e) : (x >>= f) = .error e := by
  rcases hx with ⟨a, rfl⟩ | rfl
  · exact hf a rfl
  · rfl

theorem decodeMinWindow_short {c : Config} {w : List Byte} (h : w.length < 5) :
    decodeMinWindow c w = .error .memRead := by
  refine bind_eq_error (byteAt_cases w 0) fun _ _ => ?_
  rw [byteAt_eq_error (by omega : w.length ≤ 4)]; rfl

theorem decodeStdWindow_short {c : Config} {w : List Byte} (h : w.length < 17 + c.maxGates) :
    decodeStdWindow c w = .error .memRead := by
  refine bind_eq_error (memRead_cases w 0 4) fun _ _ => bind_eq_error (byteAt_cases w 4) fun _ _ =>
    bind_eq_error (byteAt_cases w 5) fun _ _ => ?_
  rw [memRead_eq_error (by omega : w.length < 13 + c.maxGates + 4)]; rfl

theorem cfgFields_short_header {w : List Byte} (h : w.length < 8) : cfgFields w = .error .memRead := by
  refine bind_eq_error (byteAt_cases w 4) fun _ _ => bind_eq_error (byteAt_cases w 5) fun _ _ =>
    bind_eq_error (byteAt_cases w 6) fun _ _ => ?_
  rw [byteAt_eq_error (by omega : w.length ≤ 7)]; rfl

theorem cfgFields_short_payload {w : List Byte} (h8 : 8 ≤ w.length)
    (h : w.length < 6 + ((w.getD 4 0).toNat + 256 * (w.getD 5 0).toNat)) : cfgFields w = .error .memRead := by
  have hget : ∀ (i : Nat) (b : Byte), byteAt w i = .ok b → w.getD i 0 = b := by
    intro i b hb
    unfold byteAt at hb
    rw [List.getD_eq_getElem?_getD]
    split at hb
    · rename_i hi; cases hb; rw [hi]; rfl
    · cases hb
  refine bind_eq_error (byteAt_cases w 4) fun l0 h0 => bind_eq_error (byteAt_cases w 5) fun l1 h1 =>
    bind_eq_error (byteAt_cases w 6) fun _ _ => bind_eq_error (byteAt_cases w 7) fun _ _ => ?_
  rw [hget 4 l0 h0, hget 5 l1 h1] at h
  rw [memRead_eq_error (by unfold u16le; omega)]; rfl

/-- Settles O53: each decoder reads the end of its window before it answers. -/
theorem shortWindowsFault : Obligations.ShortWindowsFault := by
  intro s w
  refine ⟨fun h => ?_, fun h => ?_, fun h => ?_, fun h8 h => ?_⟩
  · show execDecodeMin w s = _
    rw [execDecodeMin, decodeMinWindow_short h]
  · show execDecodeStd w s = _
    rw [execDecodeStd, decodeStdWindow_short h]
  · show toOut (handleCfg w s.opStart) = _
    rw [handleCfg, cfgFields_short_header h]; rfl
  · show toOut (handleCfg w s.opStart) = _
    rw [handleCfg, cfgFields_short_payload h8 h]; rfl

end Sys2Proof.Proofs
end

section
/-! What an instruction can do, said once: received bytes drive the block by a few elementary steps, and every
instruction that is no host sequence has one of eight effects (42_stream_synchronizer.md R141 to R150; 43_command_ack.md
R170). Every statement about "any instruction" is a case split along the effects. -/

namespace Sys2Proof.Proofs

open Sys2Proof.Machine Sys2Proof.Spec

/-! ### The elementary steps of DRAIN and RX -/

/-- One elementary step of DRAIN: a scan, or the dispatch of a validated frame under the session's family
(42_stream_synchronizer.md R149, R202). -/
inductive DrainStep : State → State → Prop where
  | scan {s : State} {n : Nat} {evs : List Event} (hn : n ≤ s.buf.length) (hdiag : ∀ e ∈ evs, IsScanDiag e) :
      DrainStep s (s.scanned n evs)
  | tlmMin {s : State} (r : TlmMin) (hsess : s.sess = .streaming) : DrainStep s (s.emit (.tlmMin r))
  | tlmStd {s : State} (r : TlmStd) (hsess : s.sess = .streaming) : DrainStep s (s.emit (.tlmStd r))
  | reply {s : State} (cw : Word16) (p : List Byte) (hsess : s.sess ≠ .streaming) (hfits : p.length + 9 ≤ s.cfg.cap) :
      DrainStep s (handleReply cw p s)

/-- Any number of steps of DRAIN. -/
def Drained : State → State → Prop := Relation.ReflTransGen DrainStep

/-- A step of DRAIN, or a byte fed. -/
inductive RxStep : State → State → Prop where
  | drain {s t : State} (h : DrainStep s t) : RxStep s t
  | feed {s : State} (b : Byte) : RxStep s (feed b s)

/-- Any number of bytes fed and steps of DRAIN. -/
def Received : State → State → Prop := Relation.ReflTransGen RxStep

theorem Received.trans {s t u : State} (h : Received s t) (h' : Received t u) : Received s u :=
  Relation.ReflTransGen.trans h h'

/-- A property that every step of DRAIN keeps is kept by any number of them. -/
theorem Drained.closure {P : State → Prop} (hstep : ∀ s t, DrainStep s t → P s → P t) {s t : State} (h : Drained s t)
    (hs : P s) : P t := by
  induction h with
  | refl => exact hs
  | tail _ hlast ih => exact hstep _ _ hlast ih

theorem Drained.received {s t : State} (h : Drained s t) : Received s t :=
  h.closure (P := Received s) (fun _ _ hstep hs => hs.tail (.drain hstep)) .refl

theorem Received.closure {P : State → Prop} (hstep : ∀ s t, DrainStep s t → P s → P t)
    (hfeed : ∀ s b, P s → P (feed b s)) {s t : State} (h : Received s t) (hs : P s) : P t := by
  induction h with
  | refl => exact hs
  | tail _ hlast ih =>
    cases hlast with
    | drain hd => exact hstep _ _ hd ih
    | feed b => exact hfeed _ b ih

theorem sess_of_family_min {s : State} (h : s.family = .min) : s.sess = .streaming := by
  rcases family_cases s with ⟨-, hf⟩ | ⟨hs, -, -⟩ | ⟨hs, -, -⟩
  · rw [h] at hf; cases hf
  · exact hs
  · exact hs

theorem sess_of_family_std {s : State} (h : s.family = .std) : s.sess = .streaming := by
  rcases family_cases s with ⟨-, hf⟩ | ⟨hs, -, -⟩ | ⟨hs, -, -⟩
  · rw [h] at hf; cases hf
  · exact hs
  · exact hs

theorem sess_of_family_cfg {s : State} (h : s.family = .cfg) : s.sess ≠ .streaming := by
  rcases family_cases s with ⟨hs, -⟩ | ⟨-, -, hf⟩ | ⟨-, -, hf⟩
  · exact hs
  · rw [h] at hf; cases hf
  · rw [h] at hf; cases hf

theorem drainStep_of_dispatch {s t : State} {w : List Byte} (hv : Validated s.cfg s.family w)
    (h : dispatchFrame s.family w s = .ok t) : DrainStep s t := by
  rcases dispatchFrame_spec hv with ⟨hf, r, -, hd⟩ | ⟨hf, r, -, hd⟩ | ⟨hf, cw, p, -, hp, hd⟩
  · rw [hd] at h; cases h; exact .tlmMin r (sess_of_family_min hf)
  · rw [hd] at h; cases h; exact .tlmStd r (sess_of_family_std hf)
  · rw [hd] at h; cases h; exact .reply cw p (sess_of_family_cfg hf) hp

/-- DRAIN is steps of DRAIN, and ends where EXTRACT waits (42_stream_synchronizer.md R149, R151). -/
theorem drained_of_drain {s t : State} (h : drain s = .ok t) : Drained s t ∧ Waiting t.cfg t.family t.buf := by
  obtain ⟨u, hu, hsteps, hwait⟩ := drain_spec (Drained s) (fun _ _ _ hn hdiag h => h.tail (.scan hn hdiag))
    (fun _ _ _ hv hd h => h.tail (drainStep_of_dispatch hv hd)) s .refl
  rw [h] at hu
  cases hu
  exact ⟨hsteps, hwait⟩

theorem received_of_receive {b : Byte} {s t : State} (h : receive b s = .ok t) : Received s t :=
  .trans (.single (.feed b)) (drained_of_drain h).1.received

theorem receiveAll_cons {b : Byte} {bs : List Byte} {s t : State} :
    receiveAll (b :: bs) s = .ok t ↔ ∃ u, receive b s = .ok u ∧ receiveAll bs u = .ok t := bind_eq_ok

theorem received_of_receiveAll {bs : List Byte} : ∀ {s t : State}, receiveAll bs s = .ok t → Received s t := by
  induction bs with
  | nil => intro s t h; cases h; exact .refl
  | cons b bs ih =>
    intro s t h
    obtain ⟨u, hu, h⟩ := receiveAll_cons.mp h
    exact (received_of_receive hu).trans (ih h)

/-! ### The effects of an instruction -/

/-- What an instruction that is no host sequence does to the state `s`. -/
inductive Effect (s : State) : Instr → State → Prop where
  /-- NOP, the reserved codes, POLL, and the micro-operations that feed nothing -/
  | looked {i : Instr} {t : State} (r : OpResult) (h : Drained s.opStart t) (hreset : i ≠ .reset)
      (hissue : isIssue i = false) : Effect s i (t.setResult r)
  | fed (b : Byte) : Effect s (.feed b) (feed b s.opStart)
  /-- RX and the frame rows -/
  | arrived {i : Instr} {t : State} (bs : List Byte) (h : receiveAll bs s.opStart = .ok t) (hreset : i ≠ .reset)
      (hissue : isIssue i = false) : Effect s i t
  | handled (w : List Byte) (cw : Word16) (p : List Byte) (h : cfgFields w = .ok (cw, p)) :
      Effect s (.handleCfg w) (handleReply cw p s.opStart)
  | issued {i : Instr} (hi : isIssue i = true) (cls : BitVec 2) (cw ex : Word16) (chk : Bool) (p : List Byte) :
      Effect s i (issue cls cw ex chk p s.opStart)
  | tick : Effect s .tick (tick s.opStart)
  | xerr : Effect s .xerr (xerr s.opStart)
  | cancel : Effect s .cancel (cancel s.opStart)
  | setTfam (m : Tfam) : Effect s (.setTfam m) { s.opStart with tfam := m }
  | reset : Effect s .reset (resetBlock s)

theorem Effect.of_result {s t : State} {i : Instr} (r : OpResult) (h : t = s.opStart.setResult r) (hreset : i ≠ .reset)
    (hissue : isIssue i = false) : Effect s i t := h ▸ .looked r .refl hreset hissue

theorem Effect.of_command {s t : State} {i : Instr} {m : Command} {p : List Byte} (hcmd : i.command? = some (m, p))
    (h : exec i s = .next t) : Effect s i t := by
  rw [exec_command hcmd] at h
  cases h
  have hi : isIssue i = true := by cases i <;> first | rfl | cases hcmd
  exact .issued hi _ _ _ _ _

theorem execEncode_result {cw : Word16} {p : List Byte} {s t : State} (h : exec (.encode cw p) s = .next t) :
    ∃ r, t = s.opStart.setResult r := by
  cases henc : encodeFrame s.cfg cw p with
  | some w => rw [exec_encode_some henc] at h; cases h; exact ⟨_, rfl⟩
  | none => rw [exec_encode_none henc] at h; cases h; exact ⟨_, rfl⟩

theorem execDecodeMin_result {w : List Byte} {s t : State} (h : exec (.decodeMin w) s = .next t) :
    ∃ r, t = s.opStart.setResult r := by
  cases hw : decodeMinWindow s.cfg w with
  | ok r => rw [exec_decodeMin_of_window hw] at h; cases h; exact ⟨_, rfl⟩
  | error f =>
    have : exec (.decodeMin w) s = .fault f := by show execDecodeMin w s = _; rw [execDecodeMin, hw]
    rw [this] at h; cases h

theorem execDecodeStd_result {w : List Byte} {s t : State} (h : exec (.decodeStd w) s = .next t) :
    ∃ r, t = s.opStart.setResult r := by
  cases hw : decodeStdWindow s.cfg w with
  | ok r => rw [exec_decodeStd_of_window hw] at h; cases h; exact ⟨_, rfl⟩
  | error f =>
    have : exec (.decodeStd w) s = .fault f := by show execDecodeStd w s = _; rw [execDecodeStd, hw]
    rw [this] at h; cases h

/-- EXTRACT is one scan, with its answer as result. -/
theorem execExtract_eq (s : State) : ∃ n evs r, n ≤ s.buf.length ∧ (∀ e ∈ evs, IsScanDiag e) ∧
    exec .extract s = .next ((s.opStart.scanned n evs).setResult r) := by
  obtain ⟨n, evs, r, hx, hn, hdiag, -⟩ := extract_spec s.opStart
  refine ⟨n, evs, r.elim .noFrame (.frame s.family), hn, hdiag, ?_⟩
  show execExtract s = _
  rw [execExtract, hx]
  cases r <;> rfl

theorem exec_poll_eq (s : State) : ∃ t, drain s.opStart = .ok t ∧
    exec .poll s = .next (t.setResult (.poll (pollStatus t) t.pCw (pollReply t))) := by
  obtain ⟨t, ht, hp⟩ := poll_spec s.opStart
  exact ⟨t, ht, by show toOut (poll s.opStart) = _; rw [hp]; rfl⟩

theorem exec_handleCfg_next {w : List Byte} {s t : State} (h : exec (.handleCfg w) s = .next t) :
    ∃ cw p, cfgFields w = .ok (cw, p) ∧ t = handleReply cw p s.opStart := by
  obtain ⟨⟨cw, p⟩, hf, ht⟩ := bind_eq_ok.mp (toOut_next.mp h)
  cases ht
  exact ⟨cw, p, hf, rfl⟩

/-- Every instruction that is no host sequence has one of the effects. -/
theorem exec_effect {i : Instr} {s t : State} (h : exec i s = .next t) (hseq : i.format ≠ .pseudo) : Effect s i t := by
  cases hcmd : i.command? with
  | some mp => exact .of_command hcmd h
  | none =>
    cases i
    case tlmMin st d => exact .arrived _ (toOut_next.mp h) (by simp) rfl
    case tlmStd ft st mov sta res e => exact .arrived _ (toOut_next.mp h) (by simp) rfl
    case cfgFrame cw p => exact .arrived _ (toOut_next.mp h) (by simp) rfl
    case cfgFrameCk cw p => exact .arrived _ (toOut_next.mp h) (by simp) rfl
    case nop => cases h; exact .of_result .none rfl (by simp) rfl
    case rx b => exact .arrived [b] (receiveAll_cons.mpr ⟨t, toOut_next.mp h, rfl⟩) (by simp) rfl
    case tick => cases h; exact .tick
    case xerr => cases h; exact .xerr
    case issue cls cw ex chk p => cases h; exact .issued rfl cls cw ex chk p
    case poll =>
      obtain ⟨u, hu, hp⟩ := exec_poll_eq s
      rw [hp] at h; cases h
      exact .looked _ (drained_of_drain hu).1 (by simp) rfl
    case cancel => cases h; exact .cancel
    case setTfam m => cases h; exact .setTfam m
    case reservedOp code => cases h; exact .of_result .illegalOp rfl (by simp) rfl
    case reset => cases h; exact .reset
    case feed b => cases h; exact .fed b
    case extract =>
      obtain ⟨n, evs, r, hn, hdiag, hx⟩ := execExtract_eq s
      rw [hx] at h; cases h
      exact .looked r (.single (.scan hn hdiag)) (by simp) rfl
    case drain => exact .looked t.result (drained_of_drain (toOut_next.mp h)).1 (by simp) rfl
    case handleCfg w =>
      obtain ⟨cw, p, hf, rfl⟩ := exec_handleCfg_next h
      exact .handled w cw p hf
    case encode cw p => obtain ⟨r, hr⟩ := execEncode_result h; exact .of_result r hr (by simp) rfl
    case checksum bytes => cases h; exact .of_result _ rfl (by simp) rfl
    case matchMarker bytes off m => cases h; exact .of_result _ rfl (by simp) rfl
    case decodeMin w => obtain ⟨r, hr⟩ := execDecodeMin_result h; exact .of_result r hr (by simp) rfl
    case decodeStd w => obtain ⟨r, hr⟩ := execDecodeStd_result h; exact .of_result r hr (by simp) rfl
    case family => cases h; exact .of_result _ rfl (by simp) rfl
    case presence st => cases h; exact .of_result _ rfl (by simp) rfl
    all_goals first | exact absurd rfl hseq | cases hcmd

end Sys2Proof.Proofs
end

section
/-! The invariants of 10_state.md R31: RESET satisfies them, and every operation, instruction and step keeps them. Room in
the buffer is lost by a byte fed and won back where DRAIN waits; the rest of the invariants is kept by every elementary
step. -/

namespace Sys2Proof.Proofs

open Sys2Proof.Machine Sys2Proof.Spec

/-! ### Invariants that speak of the registers alone -/

/-- Everything the invariants say but the room in the buffer: the invariants of the state with its buffer emptied. -/
def InvButRoom (s : State) : Prop := Inv s.clearBuf

theorem inv_iff {s : State} : Inv s ↔ InvButRoom s ∧ s.buf.length < s.cfg.cap := by
  constructor
  · intro h
    have hcap := h.cfg_wf.cap_cfg
    exact ⟨{ h with buf_room := Nat.lt_of_lt_of_le (Nat.succ_pos 11) hcap }, h.buf_room⟩
  · exact fun ⟨h, hroom⟩ => { h with buf_room := hroom }

/-- The invariants read the parameters and nine registers. -/
theorem InvButRoom.of_registers {s t : State} (h : InvButRoom s) (hcfg : t.cfg = s.cfg) (hsess : t.sess = s.sess)
    (hhs : t.hs = s.hs) (hreason : t.failReason = s.failReason) (htmo : t.tmoCnt = s.tmoCnt)
    (hexpect : t.pExpect = s.pExpect) (hcw : t.rpCw = s.rpCw) (hlen : t.rpLen = s.rpLen)
    (hpayload : t.rpPayload = s.rpPayload) : InvButRoom t := by
  obtain ⟨h1, h2, h3, h4, h5, h6, h7, h8, h9⟩ := h
  simp only [State.rpValid, State.clearBuf_cfg, State.clearBuf_buf, State.clearBuf_sess, State.clearBuf_hs,
    State.clearBuf_failReason, State.clearBuf_tmoCnt, State.clearBuf_pExpect, State.clearBuf_rpCw, State.clearBuf_rpLen,
    State.clearBuf_rpPayload, ← hcfg, ← hsess, ← hhs, ← hreason, ← htmo, ← hexpect, ← hcw, ← hlen, ← hpayload] at *
  exact ⟨h1, h2, h3, h4, h5, h6, h7, h8, h9⟩

/-- A command that ends in failure (44_session_controller.md R203). -/
theorem InvButRoom.failCommand {s : State} (h : InvButRoom s) {r : FailReason} (hr : r = .timeout ∨ r = .transport) :
    InvButRoom (s.failCommand r) := by
  refine { h with awaiting_iff_sent := ?_, timer_runs := ?_, reason_iff_failed := ?_, reply_matches := ?_ }
  · simp
  · simp
  · rcases hr with rfl | rfl <;> simp
  · rcases hr with rfl | rfl <;> simp [State.rpValid]

theorem sessAfterAck_ne_awaiting (k : CmdClass) (prior : Bool) : sessAfterAck k prior ≠ .awaitingAck := by
  cases k <;> cases prior <;> simp [sessAfterAck]

/-- An acknowledged or rejected reply (43_command_ack.md R176): the reply registers take the expected word. -/
theorem InvButRoom.handleReply {s : State} (h : InvButRoom s) (cw : Word16) {p : List Byte}
    (hp : p.length + 9 ≤ s.cfg.cap) : InvButRoom (handleReply cw p s) := by
  rcases handleReply_cases cw p s with ⟨hs, rfl, -, he⟩ | ⟨hs, rfl, -, he⟩ | ⟨-, -, he⟩ | ⟨-, he⟩
  · have hreason : s.failReason = .none := by
      by_contra hne
      have hfailed := h.reason_iff_failed.mp hne
      rw [State.clearBuf_hs, hs] at hfailed
      cases hfailed
    rw [he]
    refine { h with
      awaiting_iff_sent := ?_, timer_runs := ?_, reason_iff_failed := ?_, reply_matches := ?_, reply_fits := hp
      reply_len := rfl }
    · simpa using sessAfterAck_ne_awaiting s.pClass s.pPrior
    · simp
    · simp [hreason]
    · simp
  · rw [he]
    refine { h with
      awaiting_iff_sent := ?_, timer_runs := ?_, reason_iff_failed := ?_, reply_matches := ?_, reply_fits := hp
      reply_len := rfl }
    · simp
    · simp
    · simp
    · simp
  · rw [he]; exact h.of_registers rfl rfl rfl rfl rfl rfl rfl rfl rfl
  · rw [he]; exact h.of_registers rfl rfl rfl rfl rfl rfl rfl rfl rfl

theorem InvButRoom.drainStep {s t : State} (h : DrainStep s t) (hs : InvButRoom s) : InvButRoom t := by
  cases h with
  | scan => exact hs.of_registers rfl rfl rfl rfl rfl rfl rfl rfl rfl
  | tlmMin => exact hs.of_registers rfl rfl rfl rfl rfl rfl rfl rfl rfl
  | tlmStd => exact hs.of_registers rfl rfl rfl rfl rfl rfl rfl rfl rfl
  | reply cw p hsess hfits => exact hs.handleReply cw hfits

theorem InvButRoom.drained {s t : State} (h : Drained s t) (hs : InvButRoom s) : InvButRoom t :=
  h.closure (fun _ _ => InvButRoom.drainStep) hs

/-! ### Room in the buffer -/

theorem drainStep_buf {s t : State} (h : DrainStep s t) : t.buf.length ≤ s.buf.length ∧ t.cfg = s.cfg := by
  cases h with
  | scan => exact ⟨by simp, rfl⟩
  | tlmMin => exact ⟨le_rfl, rfl⟩
  | tlmStd => exact ⟨le_rfl, rfl⟩
  | reply cw p => exact ⟨by simp, handleReply_cfg cw p s⟩

theorem drained_buf {s t : State} (h : Drained s t) : t.buf.length ≤ s.buf.length ∧ t.cfg = s.cfg :=
  h.closure (P := fun u => u.buf.length ≤ s.buf.length ∧ u.cfg = s.cfg)
    (fun _ _ hstep ⟨hlen, hcfg⟩ => ⟨(drainStep_buf hstep).1.trans hlen, (drainStep_buf hstep).2.trans hcfg⟩) ⟨le_rfl, rfl⟩

theorem feed_of_room {s : State} (h : s.buf.length < s.cfg.cap) (b : Byte) : feed b s = s.appendByte b := if_pos h

/-- Where DRAIN ends there is room for the next byte (42_stream_synchronizer.md R153). -/
theorem room_of_drain {s t : State} (hc : s.cfg.Wf) (h : drain s = .ok t) : t.buf.length < t.cfg.cap := by
  obtain ⟨hsteps, hwait⟩ := drained_of_drain h
  exact waiting_room (by rw [(drained_buf hsteps).2]; exact hc) hwait

/-! ### Every operation keeps the invariants -/

theorem inv_opStart {s : State} (h : Inv s) : Inv s.opStart := { h with }

theorem inv_setResult {s : State} (h : Inv s) (r : OpResult) : Inv (s.setResult r) := { h with }

theorem inv_setTfam {s : State} (h : Inv s) (m : Tfam) : Inv { s with tfam := m } := { h with }

theorem inv_dequeue {s : State} (h : Inv s) (rest : List Byte) : Inv (s.dequeue rest) := { h with }

theorem inv_drained {s t : State} (h : Inv s) (hd : Drained s t) : Inv t := by
  obtain ⟨hregs, hroom⟩ := inv_iff.mp h
  obtain ⟨hlen, hcfg⟩ := drained_buf hd
  exact inv_iff.mpr ⟨hregs.drained hd, by rw [hcfg]; omega⟩

theorem inv_drain {s t : State} (h : Inv s) (hd : drain s = .ok t) : Inv t := inv_drained h (drained_of_drain hd).1

theorem inv_receive {s t : State} (h : Inv s) {b : Byte} (hr : receive b s = .ok t) : Inv t := by
  obtain ⟨hregs, hroom⟩ := inv_iff.mp h
  have hr' : drain (s.appendByte b) = .ok t := by rw [← feed_of_room hroom]; exact hr
  have hfed : InvButRoom (s.appendByte b) := hregs.of_registers rfl rfl rfl rfl rfl rfl rfl rfl rfl
  exact inv_iff.mpr ⟨hfed.drained (drained_of_drain hr').1, room_of_drain (s := s.appendByte b) h.cfg_wf hr'⟩

theorem inv_receiveAll {bs : List Byte} : ∀ {s t : State}, Inv s → receiveAll bs s = .ok t → Inv t := by
  induction bs with
  | nil => intro s t h hr; cases hr; exact h
  | cons b bs ih =>
    intro s t h hr
    obtain ⟨u, hu, hr⟩ := receiveAll_cons.mp hr
    exact ih (inv_receive h hu) hr

theorem inv_clearBuf {s : State} (h : Inv s) : Inv s.clearBuf := (inv_iff.mp h).1

theorem inv_emit {s : State} (h : Inv s) (e : Event) : Inv (s.emit e) := { h with }

theorem inv_failCommand {s : State} (h : Inv s) {r : FailReason} (hr : r = .timeout ∨ r = .transport) :
    Inv (s.failCommand r) := by
  obtain ⟨hregs, hroom⟩ := inv_iff.mp h
  exact inv_iff.mpr ⟨hregs.failCommand hr, hroom⟩

theorem inv_tick {s : State} (h : Inv s) : Inv (tick s) := by
  have hbound : s.tmoCnt - 1 ≤ s.cfg.timeoutTicks := by have := h.timer_bound; omega
  rcases tick_cases s with ⟨-, he⟩ | ⟨-, hpos, he⟩ | ⟨hs, hzero, he⟩
  · rw [he]; exact h
  · rw [he]
    exact { h with timer_runs := fun _ => by simp only; omega, timer_bound := hbound }
  · rw [he]
    refine { h with
      awaiting_iff_sent := ?_, timer_runs := ?_, timer_bound := hbound, reason_iff_failed := ?_, reply_matches := ?_ }
    · simp
    · simp
    · simp
    · simp [State.rpValid]

theorem inv_xerr {s : State} (h : Inv s) : Inv (xerr s) := by
  rcases xerr_cases s with ⟨-, he⟩ | ⟨-, he⟩
  · rw [he]; exact inv_clearBuf h
  · rw [he]; exact inv_emit (inv_failCommand (inv_clearBuf h) (.inr rfl)) _

theorem inv_cancel {s : State} (h : Inv s) : Inv (cancel s) := by
  rcases cancel_cases s with ⟨-, he⟩ | ⟨-, he⟩
  · rw [he]; exact h
  · rw [he]
    refine { h with awaiting_iff_sent := ?_, timer_runs := ?_, reason_iff_failed := ?_, reply_matches := ?_ }
    · simp
    · simp
    · simp
    · simp [State.rpValid]

/-- The state an accepted ISSUE leaves: the timer runs from `TIMEOUT_TICKS`, which is at least 1. -/
theorem inv_issued {s : State} (h : Inv s) (k : CmdClass) (cw ex : Word16) (chk : Bool) (frame : List Byte) :
    Inv (issued k cw ex chk frame s) := by
  refine { inv_clearBuf h with
    awaiting_iff_sent := ?_, timer_runs := fun _ => h.cfg_wf.timeout_pos, timer_bound := le_rfl
    reason_iff_failed := ?_, reply_matches := ?_ }
  · simp [Proofs.issued]
  · simp [Proofs.issued]
  · simp [Proofs.issued, State.rpValid]

theorem inv_issue {s : State} (h : Inv s) (cls : BitVec 2) (cw ex : Word16) (chk : Bool) (p : List Byte) :
    Inv (issue cls cw ex chk p s) := by
  rcases issue_cases cls cw ex chk p s with ⟨he, -⟩ | ⟨he, -⟩ | ⟨-, k, frame, -, -, -, he⟩
  · rw [he]; exact inv_setResult h _
  · rw [he]; exact inv_setResult h _
  · rw [he]; exact inv_issued h k cw ex chk frame

theorem inv_resetWith {c : Config} (hc : c.Wf) : Inv (State.resetWith c) where
  cfg_wf := hc
  buf_room := by have := hc.cap_cfg; simp only [State.resetWith, List.length_nil]; omega
  awaiting_iff_sent := by simp [State.resetWith]
  timer_runs := by simp [State.resetWith]
  timer_bound := Nat.zero_le _
  reason_iff_failed := by simp [State.resetWith]
  reply_matches := by simp [State.resetWith, State.rpValid]
  reply_fits := by have := hc.cap_cfg; simp only [State.resetWith]; omega
  reply_len := rfl

/-- Settles O48: the reset values, one invariant at a time. -/
theorem resetSatisfiesTheInvariants : Obligations.ResetSatisfiesTheInvariants := fun _ => inv_resetWith

/-- Settles O50, by the effects of an instruction and the closure of the host sequences under the operations. -/
theorem instructionsKeepTheInvariants : Obligations.InstructionsKeepTheInvariants := by
  intro i s t hinv h hfeed hhandle
  by_cases hseq : i.format = .pseudo
  · exact pseudo_closure Inv (fun _ _ _ hs => inv_receive hs) (fun _ _ => inv_drain) (fun _ => inv_tick) (fun _ => inv_xerr)
      (fun _ => inv_cancel) (fun _ _ _ hs => inv_issue hs _ _ _ _ _) (fun _ r hs => inv_setResult hs r)
      (inv_opStart hinv) h hseq
  · have hstart := inv_opStart hinv
    cases exec_effect h hseq with
    | looked r hd => exact inv_setResult (inv_drained hstart hd) r
    | fed b => exact absurd rfl (hfeed b)
    | arrived bs hr => exact inv_receiveAll hstart hr
    | handled w cw p hf => exact absurd rfl (hhandle w)
    | issued hi cls cw ex chk p => exact inv_issue hstart cls cw ex chk p
    | tick => exact inv_tick hstart
    | xerr => exact inv_xerr hstart
    | cancel => exact inv_cancel hstart
    | setTfam m => exact inv_setTfam hstart m
    | reset => exact { inv_resetWith hinv.cfg_wf with }

/-- What a step does: nothing, or one operation or frame (00_scope.md R10: no agent invokes a micro-operation). -/
theorem step_next {s t : State} (h : step s = .next t) :
    t = s.opStart ∨ ∃ i rest, (i.format = .op ∨ i.format = .frame) ∧ exec i (s.dequeue rest) = .next t := by
  by_cases hq : s.inq = []
  · rw [step_of_idle hq] at h
    cases h
    exact .inl rfl
  · cases hdec : decode s.cfg s.inq with
    | error e => rw [step_of_error hq hdec] at h; cases h
    | ok x =>
      obtain ⟨i, rest⟩ := x
      obtain ⟨head, ⟨-, hfmt, -⟩, -⟩ := decode_sound hdec
      rw [step_of_decode hdec] at h
      exact .inr ⟨i, rest, hfmt, h⟩

/-- Settles O49: what a step performs is neither of the two instructions that can break the invariants. -/
theorem stepKeepsTheInvariants : Obligations.StepKeepsTheInvariants := by
  intro s t hinv h
  rcases step_next h with rfl | ⟨i, rest, hfmt, hx⟩
  · exact inv_opStart hinv
  · refine instructionsKeepTheInvariants i _ t (inv_dequeue hinv rest) hx (fun b hb => ?_) (fun w hw => ?_)
    · rw [hb] at hfmt; simp [Instr.format] at hfmt
    · rw [hw] at hfmt; simp [Instr.format] at hfmt

end Sys2Proof.Proofs
end

section
/-! Which events an instruction can emit: no step overflows the buffer (42_stream_synchronizer.md R153), only ISSUE sends
(43_command_ack.md R184), and telemetry and replies exclude each other (44_session_controller.md R202, R205). -/

namespace Sys2Proof.Proofs

open Sys2Proof.Machine Sys2Proof.Spec

/-! ### The events of each operation -/

/-- All events emitted so far satisfy `p`. -/
def EventsIn (p : Event → Prop) (s : State) : Prop := ∀ e ∈ s.events, p e

section

variable {p : Event → Prop}

theorem eventsIn_of_events {s t : State} (h : EventsIn p s) (he : t.events = s.events) : EventsIn p t := by
  rwa [EventsIn, he]

theorem eventsIn_append {s t : State} {evs : List Event} (h : EventsIn p s) (he : t.events = s.events ++ evs)
    (hevs : ∀ e ∈ evs, p e) : EventsIn p t := by
  intro e hmem
  rw [he, List.mem_append] at hmem
  exact hmem.elim (h e) (hevs e)

theorem eventsIn_opStart (p : Event → Prop) (s : State) : EventsIn p s.opStart := by simp [EventsIn]

/-- The reply parser appends ACK_DONE, CMD_REJECTED, STRAY, or the diagnostic INVALID_REPLY before STRAY. -/
theorem handleReply_events (cw : Word16) (q : List Byte) (s : State) :
    ∃ evs, (handleReply cw q s).events = s.events ++ evs ∧ ∀ e ∈ evs, e.isReply = true ∨ e = .diag .invalidReply := by
  rcases handleReply_cases cw q s with ⟨-, -, -, he⟩ | ⟨-, -, -, he⟩ | ⟨-, -, he⟩ | ⟨-, he⟩ <;> rw [he]
  · exact ⟨[.ackDone cw q], rfl, by simp [Event.isReply]⟩
  · exact ⟨[.cmdRejected cw q], rfl, by simp [Event.isReply]⟩
  · exact ⟨[.diag .invalidReply, .stray cw q], by simp, by simp [Event.isReply]⟩
  · exact ⟨[.stray cw q], rfl, by simp [Event.isReply]⟩

theorem eventsIn_handleReply (hreply : ∀ e, e.isReply = true → p e) (hdiag : ∀ d, d ≠ .overflow → p (.diag d))
    {s : State} (h : EventsIn p s) (cw : Word16) (q : List Byte) : EventsIn p (handleReply cw q s) := by
  obtain ⟨evs, he, hevs⟩ := handleReply_events cw q s
  refine eventsIn_append h he fun e hmem => ?_
  rcases hevs e hmem with hr | rfl
  · exact hreply e hr
  · exact hdiag _ (by simp)

theorem eventsIn_issue (hsend : ∀ e, e.toTransport = true → p e) {s : State} (h : EventsIn p s) (cls : BitVec 2)
    (cw ex : Word16) (chk : Bool) (q : List Byte) : EventsIn p (issue cls cw ex chk q s) := by
  rcases issue_cases cls cw ex chk q s with ⟨he, -⟩ | ⟨he, -⟩ | ⟨-, k, frame, -, -, -, he⟩ <;> rw [he]
  · exact eventsIn_of_events h rfl
  · exact eventsIn_of_events h rfl
  · exact eventsIn_append (evs := [.flushInput, .tx frame]) h (by simp)
      (by simpa using ⟨hsend .flushInput rfl, hsend (.tx frame) rfl⟩)

theorem eventsIn_tick (htmo : p .cmdTimeout) {s : State} (h : EventsIn p s) : EventsIn p (tick s) := by
  rcases tick_cases s with ⟨-, he⟩ | ⟨-, -, he⟩ | ⟨-, -, he⟩ <;> rw [he]
  · exact h
  · exact eventsIn_of_events h rfl
  · exact eventsIn_append (evs := [.cmdTimeout]) h rfl (by simpa using htmo)

theorem eventsIn_xerr (hxerr : p .cmdXerr) {s : State} (h : EventsIn p s) : EventsIn p (xerr s) := by
  rcases xerr_cases s with ⟨-, he⟩ | ⟨-, he⟩ <;> rw [he]
  · exact eventsIn_of_events h rfl
  · exact eventsIn_append (evs := [.cmdXerr]) h rfl (by simpa using hxerr)

theorem eventsIn_cancel {s : State} (h : EventsIn p s) : EventsIn p (cancel s) := by
  rcases cancel_cases s with ⟨-, he⟩ | ⟨-, he⟩ <;> rw [he]
  · exact h
  · exact eventsIn_of_events h rfl

theorem eventsIn_feed (hdiag : ∀ d, p (.diag d)) {s : State} (h : EventsIn p s) (b : Byte) : EventsIn p (feed b s) := by
  rcases feed_cases b s with ⟨-, he⟩ | ⟨-, he⟩ <;> rw [he]
  · exact eventsIn_of_events h rfl
  · exact eventsIn_append (evs := [.diag .overflow]) h rfl (by simpa using hdiag _)

theorem eventsIn_scanned (hdiag : ∀ d, d ≠ .overflow → p (.diag d)) {s : State} (h : EventsIn p s) {n : Nat}
    {evs : List Event} (hevs : ∀ e ∈ evs, IsScanDiag e) : EventsIn p (s.scanned n evs) := by
  refine eventsIn_append h rfl fun e hmem => ?_
  rcases hevs e hmem with rfl | rfl
  · exact hdiag _ (by simp)
  · exact hdiag _ (by simp)

theorem eventsIn_drainStep (htlm : ∀ e, e.isTelemetry = true → p e) (hreply : ∀ e, e.isReply = true → p e)
    (hdiag : ∀ d, d ≠ .overflow → p (.diag d)) {s t : State} (h : DrainStep s t) (hs : EventsIn p s) : EventsIn p t := by
  cases h with
  | scan hn hevs => exact eventsIn_scanned hdiag hs hevs
  | tlmMin r => exact eventsIn_append (evs := [.tlmMin r]) hs rfl (by simpa using htlm (.tlmMin r) rfl)
  | tlmStd r => exact eventsIn_append (evs := [.tlmStd r]) hs rfl (by simpa using htlm (.tlmStd r) rfl)
  | reply cw q => exact eventsIn_handleReply hreply hdiag hs cw q

end

/-! ### No overflow (42_stream_synchronizer.md R153) -/

/-- No `DIAG(OVERFLOW)` has been emitted. -/
def NoOverflow : State → Prop := EventsIn (· ≠ .diag .overflow)

theorem noOverflow_drained {s t : State} (h : Drained s t) (hs : NoOverflow s) : NoOverflow t :=
  h.closure (P := NoOverflow) (fun _ _ => eventsIn_drainStep (by rintro e he rfl; cases he) (by rintro e he rfl; cases he)
    (by rintro d hd h; cases h; exact hd rfl)) hs

/-- A byte that finds room overflows nothing, and where DRAIN ends there is room again. -/
theorem noOverflow_receiveAll {bs : List Byte} : ∀ {s t : State}, Inv s → receiveAll bs s = .ok t → NoOverflow s →
    NoOverflow t := by
  induction bs with
  | nil => intro s t _ h hs; cases h; exact hs
  | cons b bs ih =>
    intro s t hinv h hs
    obtain ⟨u, hu, h⟩ := receiveAll_cons.mp h
    have hu' : drain (s.appendByte b) = .ok u := by rw [← feed_of_room hinv.buf_room]; exact hu
    exact ih (inv_receive hinv hu) h (noOverflow_drained (drained_of_drain hu').1 hs)

/-- Settles O25: only FEED of a full buffer overflows, and no operation starts with a full buffer. -/
theorem noStepOverflows : Obligations.NoStepOverflows := by
  intro s t hinv h
  suffices hno : NoOverflow t from fun hmem => hno _ hmem rfl
  rcases step_next h with rfl | ⟨i, rest, hfmt, hx⟩
  · exact eventsIn_opStart _ s
  · have hseq : i.format ≠ .pseudo := by rcases hfmt with hf | hf <;> simp [hf]
    have hstart : NoOverflow (s.dequeue rest).opStart := eventsIn_opStart _ _
    cases exec_effect hx hseq with
    | looked r hd => exact eventsIn_of_events (noOverflow_drained hd hstart) rfl
    | fed b => simp [Instr.format] at hfmt
    | arrived bs hr => exact noOverflow_receiveAll (inv_opStart (inv_dequeue hinv rest)) hr hstart
    | handled w cw q => simp [Instr.format] at hfmt
    | issued hi cls cw ex chk q => exact eventsIn_issue (by rintro e he rfl; cases he) hstart cls cw ex chk q
    | tick => exact eventsIn_tick (by simp) hstart
    | xerr => exact eventsIn_xerr (by simp) hstart
    | cancel => exact eventsIn_cancel hstart
    | setTfam m => exact hstart
    | reset => exact eventsIn_opStart _ s

/-! ### Only ISSUE sends (43_command_ack.md R184) -/

theorem not_toTransport_of_isTelemetry {e : Event} (h : e.isTelemetry = true) : e.toTransport = false := by
  cases e <;> first | rfl | cases h

theorem not_toTransport_of_isReply {e : Event} (h : e.isReply = true) : e.toTransport = false := by
  cases e <;> first | rfl | cases h

theorem nothingSent_received {s t : State} (h : Received s t) (hs : EventsIn (·.toTransport = false) s) :
    EventsIn (·.toTransport = false) t :=
  h.closure (P := EventsIn (·.toTransport = false))
    (fun _ _ => eventsIn_drainStep (fun _ => not_toTransport_of_isTelemetry) (fun _ => not_toTransport_of_isReply)
      fun _ _ => rfl)
    (fun _ b hu => eventsIn_feed (fun _ => rfl) hu b) hs

/-- Settles O37: every effect but that of ISSUE appends telemetry, replies, diagnostics and ends of commands only. -/
theorem onlyIssueTransmits : Obligations.OnlyIssueTransmits := by
  intro i s t h hissue hseq
  have hstart : EventsIn (·.toTransport = false) s.opStart := eventsIn_opStart _ s
  cases exec_effect h hseq with
  | looked r hd => exact eventsIn_of_events (nothingSent_received hd.received hstart) rfl
  | fed b => exact eventsIn_feed (fun _ => rfl) hstart b
  | arrived bs hr => exact nothingSent_received (received_of_receiveAll hr) hstart
  | handled w cw q => exact eventsIn_handleReply (fun _ => not_toTransport_of_isReply) (fun _ _ => rfl) hstart cw q
  | issued hi => rw [hissue] at hi; cases hi
  | tick => exact eventsIn_tick (by rfl) hstart
  | xerr => exact eventsIn_xerr (by rfl) hstart
  | cancel => exact eventsIn_cancel hstart
  | setTfam m => exact hstart
  | reset => exact eventsIn_opStart _ s

/-! ### Telemetry and replies exclude each other (44_session_controller.md R202, R205) -/

/-- Telemetry only while Streaming, replies only outside it: what received bytes keep, seen from the session `start`. -/
def ModeGated (start : Sess) (s : State) : Prop :=
  (s.sess ≠ .streaming → EventsIn (·.isTelemetry = false) s) ∧
  (start = .streaming → s.sess = .streaming ∧ EventsIn (·.isReply = false) s)

theorem not_isTelemetry_of_isReply {e : Event} (h : e.isReply = true) : e.isTelemetry = false := by
  cases e <;> first | rfl | cases h

theorem not_isTelemetry_of_toTransport {e : Event} (h : e.toTransport = true) : e.isTelemetry = false := by
  cases e <;> first | rfl | cases h

theorem not_isReply_of_toTransport {e : Event} (h : e.toTransport = true) : e.isReply = false := by
  cases e <;> first | rfl | cases h

theorem modeGated_drainStep {start : Sess} {s t : State} (h : DrainStep s t) (hs : ModeGated start s) :
    ModeGated start t := by
  obtain ⟨htlm, hreply⟩ := hs
  cases h with
  | scan hn hevs =>
    exact ⟨fun hsess => eventsIn_scanned (fun _ _ => rfl) (htlm hsess) hevs,
      fun hstart => ⟨(hreply hstart).1, eventsIn_scanned (fun _ _ => rfl) (hreply hstart).2 hevs⟩⟩
  | tlmMin r hsess =>
    exact ⟨fun hne => absurd hsess hne, fun hstart => ⟨hsess,
      eventsIn_append (evs := [.tlmMin r]) (hreply hstart).2 rfl (by simp [Event.isReply])⟩⟩
  | tlmStd r hsess =>
    exact ⟨fun hne => absurd hsess hne, fun hstart => ⟨hsess,
      eventsIn_append (evs := [.tlmStd r]) (hreply hstart).2 rfl (by simp [Event.isReply])⟩⟩
  | reply cw q hsess =>
    exact ⟨fun _ => eventsIn_handleReply (fun _ => not_isTelemetry_of_isReply) (fun _ _ => rfl) (htlm hsess) cw q,
      fun hstart => absurd (hreply hstart).1 hsess⟩

theorem feed_sess (b : Byte) (s : State) : (feed b s).sess = s.sess := by
  rcases feed_cases b s with ⟨-, he⟩ | ⟨-, he⟩ <;> rw [he] <;> rfl

theorem modeGated_feed {start : Sess} {s : State} (hs : ModeGated start s) (b : Byte) : ModeGated start (feed b s) := by
  obtain ⟨htlm, hreply⟩ := hs
  rw [ModeGated, feed_sess]
  exact ⟨fun hsess => eventsIn_feed (fun _ => rfl) (htlm hsess) b,
    fun hstart => ⟨(hreply hstart).1, eventsIn_feed (fun _ => rfl) (hreply hstart).2 b⟩⟩

theorem modeGated_received {s t : State} (h : Received s.opStart t) : ModeGated s.sess t :=
  h.closure (fun _ _ => modeGated_drainStep) (fun _ b hu => modeGated_feed hu b)
    ⟨fun _ => eventsIn_opStart _ s, fun hsess => ⟨hsess, eventsIn_opStart _ s⟩⟩

/-- Settles O40: received bytes keep the gate; the other effects emit neither telemetry nor replies. -/
theorem telemetryAndRepliesExcludeEachOther : Obligations.TelemetryAndRepliesExcludeEachOther := by
  intro i s t h hseq hhandle
  suffices hgate : (t.sess ≠ .streaming → EventsIn (·.isTelemetry = false) t) ∧
      (s.sess = .streaming → EventsIn (·.isReply = false) t) from hgate
  have hstart : ∀ p : Event → Prop, EventsIn p s.opStart := fun p => eventsIn_opStart p s
  cases exec_effect h hseq with
  | looked r hd =>
    have hg := modeGated_received hd.received
    exact ⟨hg.1, fun hsess => (hg.2 hsess).2⟩
  | fed b => exact ⟨fun _ => eventsIn_feed (fun _ => rfl) (hstart _) b, fun _ => eventsIn_feed (fun _ => rfl) (hstart _) b⟩
  | arrived bs hr =>
    have hg := modeGated_received (received_of_receiveAll hr)
    exact ⟨hg.1, fun hsess => (hg.2 hsess).2⟩
  | handled w => exact absurd rfl (hhandle w)
  | issued hi cls cw ex chk q =>
    exact ⟨fun _ => eventsIn_issue (fun _ => not_isTelemetry_of_toTransport) (hstart _) cls cw ex chk q,
      fun _ => eventsIn_issue (fun _ => not_isReply_of_toTransport) (hstart _) cls cw ex chk q⟩
  | tick => exact ⟨fun _ => eventsIn_tick (by rfl) (hstart _), fun _ => eventsIn_tick (by rfl) (hstart _)⟩
  | xerr => exact ⟨fun _ => eventsIn_xerr (by rfl) (hstart _), fun _ => eventsIn_xerr (by rfl) (hstart _)⟩
  | cancel => exact ⟨fun _ => eventsIn_cancel (hstart _), fun _ => eventsIn_cancel (hstart _)⟩
  | setTfam m => exact ⟨fun _ => hstart _, fun _ => hstart _⟩
  | reset => exact ⟨fun _ => eventsIn_opStart _ s, fun _ => eventsIn_opStart _ s⟩

end Sys2Proof.Proofs
end

section
/-! What an instruction can do to the handler and the session (43_command_ack.md R170, R182; 44_session_controller.md
R203): received bytes leave both alone, or end a pending command by its reply. -/

namespace Sys2Proof.Proofs

open Sys2Proof.Machine Sys2Proof.Spec

/-! ### The registers a received byte may not write (10_state.md R35) -/

/-- The nine registers a received byte leaves as they are. -/
structure SameCommand (s t : State) : Prop where
  cfg : t.cfg = s.cfg
  tmoCnt : t.tmoCnt = s.tmoCnt
  tfam : t.tfam = s.tfam
  pClass : t.pClass = s.pClass
  pCw : t.pCw = s.pCw
  pExpect : t.pExpect = s.pExpect
  pChk : t.pChk = s.pChk
  pPrior : t.pPrior = s.pPrior
  inq : t.inq = s.inq

theorem onlyReceived_iff {s t : State} : OnlyReceived s t ↔ SameCommand s t := by
  constructor
  · intro h
    unfold OnlyReceived at h
    exact ⟨by rw [h], by rw [h], by rw [h], by rw [h], by rw [h], by rw [h], by rw [h], by rw [h], by rw [h]⟩
  · rintro ⟨h1, h2, h3, h4, h5, h6, h7, h8, h9⟩
    rw [OnlyReceived, ← h1, ← h2, ← h3, ← h4, ← h5, ← h6, ← h7, ← h8, ← h9]

theorem SameCommand.refl (s : State) : SameCommand s s := ⟨rfl, rfl, rfl, rfl, rfl, rfl, rfl, rfl, rfl⟩

theorem SameCommand.trans {s t u : State} (h : SameCommand s t) (h' : SameCommand t u) : SameCommand s u :=
  ⟨h'.cfg.trans h.cfg, h'.tmoCnt.trans h.tmoCnt, h'.tfam.trans h.tfam, h'.pClass.trans h.pClass, h'.pCw.trans h.pCw,
    h'.pExpect.trans h.pExpect, h'.pChk.trans h.pChk, h'.pPrior.trans h.pPrior, h'.inq.trans h.inq⟩

theorem sameCommand_handleReply (cw : Word16) (p : List Byte) (s : State) : SameCommand s (handleReply cw p s) := by
  rcases handleReply_cases cw p s with ⟨-, -, -, he⟩ | ⟨-, -, -, he⟩ | ⟨-, -, he⟩ | ⟨-, he⟩ <;>
    (rw [he]; exact ⟨rfl, rfl, rfl, rfl, rfl, rfl, rfl, rfl, rfl⟩)

theorem sameCommand_drainStep {s t : State} (h : DrainStep s t) : SameCommand s t := by
  cases h with
  | scan => exact ⟨rfl, rfl, rfl, rfl, rfl, rfl, rfl, rfl, rfl⟩
  | tlmMin => exact ⟨rfl, rfl, rfl, rfl, rfl, rfl, rfl, rfl, rfl⟩
  | tlmStd => exact ⟨rfl, rfl, rfl, rfl, rfl, rfl, rfl, rfl, rfl⟩
  | reply cw p => exact sameCommand_handleReply cw p s

theorem sameCommand_feed (b : Byte) (s : State) : SameCommand s (feed b s) := by
  rcases feed_cases b s with ⟨-, he⟩ | ⟨-, he⟩ <;> (rw [he]; exact ⟨rfl, rfl, rfl, rfl, rfl, rfl, rfl, rfl, rfl⟩)

theorem sameCommand_received {s t : State} (h : Received s t) : SameCommand s t :=
  h.closure (P := SameCommand s) (fun _ _ hstep hs => hs.trans (sameCommand_drainStep hstep))
    (fun u b hs => hs.trans (sameCommand_feed b u)) (.refl s)

/-! ### How received bytes end a pending command (43_command_ack.md R176) -/

/-- What received bytes have made of the handler and the session of `s`: nothing, or the end of a pending command by a
reply with its expected word. -/
inductive ReplyOutcome (s t : State) : Prop where
  | unchanged (hhs : t.hs = s.hs) (hreason : t.failReason = s.failReason) (hsess : t.sess = s.sess)
      (hcw : t.rpCw = s.rpCw) (hlen : t.rpLen = s.rpLen) (hpayload : t.rpPayload = s.rpPayload)
  | acked (hsent : s.hs = .sent) (hhs : t.hs = .acked) (hreason : t.failReason = s.failReason)
      (hsess : t.sess = sessAfterAck s.pClass s.pPrior) (p : List Byte) (hack : Event.ackDone s.pExpect p ∈ t.events)
  | rejected (hsent : s.hs = .sent) (hhs : t.hs = .failed) (hreason : t.failReason = .rejected)
      (hsess : t.sess = .streaming) (p : List Byte) (hrej : Event.cmdRejected s.pExpect p ∈ t.events)

/-- Whatever leaves the handler, the session and the reply alone and forgets no event keeps the outcome. -/
theorem ReplyOutcome.of_same {s t u : State} (h : ReplyOutcome s t) (hhs : u.hs = t.hs)
    (hreason : u.failReason = t.failReason) (hsess : u.sess = t.sess) (hcw : u.rpCw = t.rpCw) (hlen : u.rpLen = t.rpLen)
    (hpayload : u.rpPayload = t.rpPayload) (hevs : t.events ⊆ u.events) : ReplyOutcome s u := by
  cases h with
  | unchanged h1 h2 h3 h4 h5 h6 =>
    exact .unchanged (hhs.trans h1) (hreason.trans h2) (hsess.trans h3) (hcw.trans h4) (hlen.trans h5) (hpayload.trans h6)
  | acked hsent h1 h2 h3 p hack => exact .acked hsent (hhs.trans h1) (hreason.trans h2) (hsess.trans h3) p (hevs hack)
  | rejected hsent h1 h2 h3 p hrej =>
    exact .rejected hsent (hhs.trans h1) (hreason.trans h2) (hsess.trans h3) p (hevs hrej)

/-- An outcome that leaves a command pending has changed nothing. -/
theorem ReplyOutcome.pending {s t : State} (h : ReplyOutcome s t) (hsent : t.hs = .sent) :
    s.hs = .sent ∧ t.failReason = s.failReason := by
  cases h with
  | unchanged hhs hreason => exact ⟨hhs ▸ hsent, hreason⟩
  | acked _ hhs => rw [hsent] at hhs; cases hhs
  | rejected _ hhs => rw [hsent] at hhs; cases hhs

theorem ReplyOutcome.refl (s : State) : ReplyOutcome s s := .unchanged rfl rfl rfl rfl rfl rfl

theorem ReplyOutcome.handleReply {s t : State} (h : ReplyOutcome s t) (hsame : SameCommand s t) (cw : Word16)
    (p : List Byte) : ReplyOutcome s (handleReply cw p t) := by
  rcases handleReply_cases cw p t with ⟨hsent, rfl, -, he⟩ | ⟨hsent, rfl, -, he⟩ | ⟨-, -, he⟩ | ⟨-, he⟩
  · obtain ⟨hs, hreason⟩ := h.pending hsent
    rw [he]
    exact .acked hs rfl hreason (by simp [hsame.pClass, hsame.pPrior]) p (by simp [hsame.pExpect])
  · obtain ⟨hs, -⟩ := h.pending hsent
    rw [he]
    exact .rejected hs rfl rfl rfl p (by simp [hsame.pExpect])
  · rw [he]; exact h.of_same rfl rfl rfl rfl rfl rfl (by simp)
  · rw [he]; exact h.of_same rfl rfl rfl rfl rfl rfl (by simp)

theorem ReplyOutcome.drainStep {s t u : State} (h : ReplyOutcome s t) (hsame : SameCommand s t) (hstep : DrainStep t u) :
    ReplyOutcome s u := by
  cases hstep with
  | scan => exact h.of_same rfl rfl rfl rfl rfl rfl (by simp)
  | tlmMin => exact h.of_same rfl rfl rfl rfl rfl rfl (by simp)
  | tlmStd => exact h.of_same rfl rfl rfl rfl rfl rfl (by simp)
  | reply cw p => exact h.handleReply hsame cw p

theorem ReplyOutcome.feed {s t : State} (h : ReplyOutcome s t) (b : Byte) : ReplyOutcome s (feed b t) := by
  rcases feed_cases b t with ⟨-, he⟩ | ⟨-, he⟩ <;> rw [he]
  · exact h.of_same rfl rfl rfl rfl rfl rfl (by simp)
  · exact h.of_same rfl rfl rfl rfl rfl rfl (by simp)

/-- All that received bytes can do to the handler, the session and the reply. -/
theorem received_outcome {s t : State} (h : Received s t) : ReplyOutcome s t :=
  (h.closure (P := fun u => SameCommand s u ∧ ReplyOutcome s u)
    (fun _ _ hstep ⟨hsame, hout⟩ => ⟨hsame.trans (sameCommand_drainStep hstep), hout.drainStep hsame hstep⟩)
    (fun u b ⟨hsame, hout⟩ => ⟨hsame.trans (sameCommand_feed b u), hout.feed b⟩) ⟨.refl s, .refl s⟩).2

theorem handleReply_outcome (cw : Word16) (p : List Byte) (s : State) : ReplyOutcome s (handleReply cw p s) :=
  (ReplyOutcome.refl s).handleReply (.refl s) cw p

/-- The effects of an instruction on handler and session: an outcome of received bytes, or one of the operations that
write them. -/
inductive HandlerEffect (s : State) : Instr → State → Prop where
  | received {i : Instr} {t : State} (h : ReplyOutcome s.opStart t) (hsame : SameCommand s t) (hissue : isIssue i = false)
      (hreset : i ≠ .reset) : HandlerEffect s i t
  | issued {i : Instr} (hi : isIssue i = true) (cls : BitVec 2) (cw ex : Word16) (chk : Bool) (p : List Byte) :
      HandlerEffect s i (issue cls cw ex chk p s.opStart)
  | tick : HandlerEffect s .tick (tick s.opStart)
  | xerr : HandlerEffect s .xerr (xerr s.opStart)
  | cancel : HandlerEffect s .cancel (cancel s.opStart)
  | setTfam (m : Tfam) : HandlerEffect s (.setTfam m) { s.opStart with tfam := m }
  | reset : HandlerEffect s .reset (resetBlock s)

theorem exec_handlerEffect {i : Instr} {s t : State} (h : exec i s = .next t) (hseq : i.format ≠ .pseudo) :
    HandlerEffect s i t := by
  have hsame : ∀ {u : State}, SameCommand s.opStart u → SameCommand s u := fun h => { h with }
  cases exec_effect h hseq with
  | looked r hd hreset hissue =>
    exact .received ((received_outcome hd.received).of_same rfl rfl rfl rfl rfl rfl (by simp))
      { hsame (sameCommand_received hd.received) with } hissue hreset
  | fed b =>
    exact .received ((ReplyOutcome.refl _).feed b) (hsame (sameCommand_feed b _)) rfl (by simp)
  | arrived bs hr hreset hissue =>
    exact .received (received_outcome (received_of_receiveAll hr)) (hsame (sameCommand_received (received_of_receiveAll hr)))
      hissue hreset
  | handled w cw p =>
    exact .received (handleReply_outcome cw p _) (hsame (sameCommand_handleReply cw p _)) rfl (by simp)
  | issued hi cls cw ex chk p => exact .issued hi cls cw ex chk p
  | tick => exact .tick
  | xerr => exact .xerr
  | cancel => exact .cancel
  | setTfam m => exact .setTfam m
  | reset => exact .reset

/-! ### Terminal results are sticky (43_command_ack.md R170, R182) -/

/-- The registers a terminal result consists of. -/
structure SameResult (s t : State) : Prop where
  hs : t.hs = s.hs
  failReason : t.failReason = s.failReason
  pCw : t.pCw = s.pCw
  pExpect : t.pExpect = s.pExpect
  rpCw : t.rpCw = s.rpCw
  rpLen : t.rpLen = s.rpLen
  rpPayload : t.rpPayload = s.rpPayload

theorem sameResult_of_not_sent {i : Instr} {s t : State} (h : HandlerEffect s i t) (hs : s.hs ≠ .sent)
    (hissue : isIssue i = false) (hreset : i ≠ .reset) : SameResult s t := by
  cases h with
  | received hout hsame =>
    cases hout with
    | unchanged hhs hreason _ hcw hlen hpayload => exact ⟨hhs, hreason, hsame.pCw, hsame.pExpect, hcw, hlen, hpayload⟩
    | acked hsent => exact absurd hsent hs
    | rejected hsent => exact absurd hsent hs
  | issued hi => rw [hissue] at hi; cases hi
  | tick => rw [tick_of_not_sent (s := s.opStart) hs]; exact ⟨rfl, rfl, rfl, rfl, rfl, rfl, rfl⟩
  | xerr =>
    rcases xerr_cases s.opStart with ⟨-, he⟩ | ⟨hsent, -⟩
    · rw [he]; exact ⟨rfl, rfl, rfl, rfl, rfl, rfl, rfl⟩
    · exact absurd hsent hs
  | cancel =>
    rcases cancel_cases s.opStart with ⟨-, he⟩ | ⟨hsent, -⟩
    · rw [he]; exact ⟨rfl, rfl, rfl, rfl, rfl, rfl, rfl⟩
    · exact absurd hsent hs
  | setTfam m => exact ⟨rfl, rfl, rfl, rfl, rfl, rfl, rfl⟩
  | reset => exact absurd rfl hreset

/-- POLL's status reads `hs` and `fail_reason` (43_command_ack.md R179). -/
theorem pollStatus_congr {s t : State} (hhs : t.hs = s.hs) (hreason : t.failReason = s.failReason) :
    pollStatus t = pollStatus s := by
  unfold pollStatus
  rw [hhs, hreason]

/-- Settles O35: without a pending command no effect but ISSUE and RESET touches the handler. -/
theorem terminalResultsAreSticky : Obligations.TerminalResultsAreSticky := by
  intro i s t h hterm hissue hreset hseq
  have hs : s.hs ≠ .sent := by rcases hterm with hs | hs <;> simp [hs]
  obtain ⟨h1, h2, h3, h4, h5, h6, h7⟩ := sameResult_of_not_sent (exec_handlerEffect h hseq) hs hissue hreset
  exact ⟨h1, h2, h3, h4, h5, h6, h7, pollStatus_congr h1 h2⟩

/-! ### The table of the handler (43_command_ack.md R170) -/

theorem failReason_of_sent {s : State} (hinv : Inv s) (hs : s.hs = .sent) : s.failReason = .none := by
  by_contra hne
  have hfailed := hinv.reason_iff_failed.mp hne
  rw [hs] at hfailed
  cases hfailed

/-- Settles O36, row by row: each effect leaves `hs` alone or is one row of the table. -/
theorem handlerChangesOnlyByTheTable : Obligations.HandlerChangesOnlyByTheTable := by
  intro i s t hinv h hseq hne
  cases exec_handlerEffect h hseq with
  | received hout =>
    cases hout with
    | unchanged hhs => exact absurd hhs hne
    | acked hsent hhs hreason _ p hack =>
      exact .inr (.inl ⟨hsent, hhs, hreason.trans (failReason_of_sent (inv_opStart hinv) hsent), p, hack⟩)
    | rejected hsent hhs hreason _ p hrej => exact .inr (.inr (.inl ⟨hsent, hhs, hreason, p, hrej⟩))
  | issued hi cls cw ex chk p =>
    rcases issue_cases cls cw ex chk p s.opStart with ⟨he, -⟩ | ⟨he, -⟩ | ⟨hs, k, frame, -, -, -, he⟩
    · rw [he] at hne; exact absurd rfl hne
    · rw [he] at hne; exact absurd rfl hne
    · rw [he]; exact .inl ⟨hs, rfl, hi, rfl, frame, rfl⟩
  | tick =>
    rcases tick_cases s.opStart with ⟨-, he⟩ | ⟨-, -, he⟩ | ⟨hs, -, he⟩
    · rw [he] at hne; exact absurd rfl hne
    · rw [he] at hne; exact absurd rfl hne
    · rw [he]; exact .inr (.inr (.inr (.inl ⟨hs, rfl, rfl, rfl, rfl⟩)))
  | xerr =>
    rcases xerr_cases s.opStart with ⟨-, he⟩ | ⟨hs, he⟩
    · rw [he] at hne; exact absurd rfl hne
    · rw [he]; exact .inr (.inr (.inr (.inr (.inl ⟨hs, rfl, rfl, rfl, rfl⟩))))
  | cancel =>
    rcases cancel_cases s.opStart with ⟨-, he⟩ | ⟨hs, he⟩
    · rw [he] at hne; exact absurd rfl hne
    · rw [he]; exact .inr (.inr (.inr (.inr (.inr (.inl ⟨hs, rfl, rfl, rfl, rfl⟩)))))
  | setTfam m => exact absurd rfl hne
  | reset => exact .inr (.inr (.inr (.inr (.inr (.inr ⟨rfl, rfl, rfl, rfl⟩)))))

/-! ### The table of the session (44_session_controller.md R203) -/

/-- The two sessions an acknowledged command can lead to, by class and origin. -/
theorem sessAfterAck_cases (k : CmdClass) (prior : Bool) :
    (sessAfterAck k prior = .configuring ∧ (k = .enter ∨ k = .other ∧ prior = true)) ∨
    (sessAfterAck k prior = .streaming ∧ (k = .exit ∨ k = .other ∧ prior = false)) := by
  cases k <;> cases prior <;> simp [sessAfterAck]

/-- Settles O39, row by row, with `sess = AWAITING_ACK` for a pending command by the invariants. -/
theorem sessionChangesOnlyByTheTable : Obligations.SessionChangesOnlyByTheTable := by
  intro i s t hinv h hseq hne
  have hawait : s.hs = .sent → s.sess = .awaitingAck := hinv.awaiting_iff_sent.mpr
  cases exec_handlerEffect h hseq with
  | received hout =>
    cases hout with
    | unchanged _ _ hsess => exact absurd hsess hne
    | acked hsent hhs _ hsess =>
      rcases sessAfterAck_cases s.pClass s.pPrior with ⟨hafter, hclass⟩ | ⟨hafter, hclass⟩
      · exact .inr (.inl ⟨hawait hsent, hsess.trans hafter, hhs, hclass⟩)
      · exact .inr (.inr (.inl ⟨hawait hsent, hsess.trans hafter, hhs, hclass⟩))
    | rejected hsent hhs hreason hsess => exact .inr (.inr (.inr (.inl ⟨hawait hsent, hsess, hhs, .inl hreason⟩)))
  | issued hi cls cw ex chk p =>
    rcases issue_cases cls cw ex chk p s.opStart with ⟨he, -⟩ | ⟨he, -⟩ | ⟨hs, k, frame, -, -, -, he⟩
    · rw [he] at hne; exact absurd rfl hne
    · rw [he] at hne; exact absurd rfl hne
    · rw [he]
      exact .inl ⟨fun hsess => hs (hinv.awaiting_iff_sent.mp hsess), rfl, hi, rfl⟩
  | tick =>
    rcases tick_cases s.opStart with ⟨-, he⟩ | ⟨-, -, he⟩ | ⟨hs, -, he⟩
    · rw [he] at hne; exact absurd rfl hne
    · rw [he] at hne; exact absurd rfl hne
    · rw [he]; exact .inr (.inr (.inr (.inl ⟨hawait hs, rfl, rfl, .inr (.inl ⟨rfl, rfl⟩)⟩)))
  | xerr =>
    rcases xerr_cases s.opStart with ⟨-, he⟩ | ⟨hs, he⟩
    · rw [he] at hne; exact absurd rfl hne
    · rw [he]; exact .inr (.inr (.inr (.inl ⟨hawait hs, rfl, rfl, .inr (.inr ⟨rfl, rfl⟩)⟩)))
  | cancel =>
    rcases cancel_cases s.opStart with ⟨-, he⟩ | ⟨hs, he⟩
    · rw [he] at hne; exact absurd rfl hne
    · rw [he]; exact .inr (.inr (.inr (.inr (.inl ⟨hawait hs, rfl, rfl⟩))))
  | setTfam m => exact absurd rfl hne
  | reset => exact .inr (.inr (.inr (.inr (.inr ⟨rfl, rfl⟩))))

/-! ### The registers no operation writes (10_state.md R28, R35) -/

/-- Parameters, queue and `tfam` are as in `s`. -/
structure SameSetting (s t : State) : Prop where
  cfg : t.cfg = s.cfg
  tfam : t.tfam = s.tfam
  inq : t.inq = s.inq

theorem SameSetting.trans {s t u : State} (h : SameSetting s t) (h' : SameSetting t u) : SameSetting s u :=
  ⟨h'.cfg.trans h.cfg, h'.tfam.trans h.tfam, h'.inq.trans h.inq⟩

theorem SameCommand.setting {s t : State} (h : SameCommand s t) : SameSetting s t := ⟨h.cfg, h.tfam, h.inq⟩

theorem sameSetting_issue (cls : BitVec 2) (cw ex : Word16) (chk : Bool) (p : List Byte) (s : State) :
    SameSetting s (issue cls cw ex chk p s) := by
  rcases issue_cases cls cw ex chk p s with ⟨he, -⟩ | ⟨he, -⟩ | ⟨-, k, frame, -, -, -, he⟩ <;>
    (rw [he]; exact ⟨rfl, rfl, rfl⟩)

theorem sameSetting_tick (s : State) : SameSetting s (tick s) := by
  rcases tick_cases s with ⟨-, he⟩ | ⟨-, -, he⟩ | ⟨-, -, he⟩ <;> (rw [he]; exact ⟨rfl, rfl, rfl⟩)

theorem sameSetting_xerr (s : State) : SameSetting s (xerr s) := by
  rcases xerr_cases s with ⟨-, he⟩ | ⟨-, he⟩ <;> (rw [he]; exact ⟨rfl, rfl, rfl⟩)

theorem sameSetting_cancel (s : State) : SameSetting s (cancel s) := by
  rcases cancel_cases s with ⟨-, he⟩ | ⟨-, he⟩ <;> (rw [he]; exact ⟨rfl, rfl, rfl⟩)

theorem sameSetting_pseudo {i : Instr} {s t : State} (h : exec i s = .next t) (hseq : i.format = .pseudo) :
    SameSetting s t :=
  pseudo_closure (SameSetting s)
    (fun _ _ _ hs hr => hs.trans (sameCommand_received (received_of_receive hr)).setting)
    (fun _ _ hs hd => hs.trans (sameCommand_received (drained_of_drain hd).1.received).setting)
    (fun u hs => hs.trans (sameSetting_tick u)) (fun u hs => hs.trans (sameSetting_xerr u))
    (fun u hs => hs.trans (sameSetting_cancel u)) (fun _ _ u hs => hs.trans (sameSetting_issue _ _ _ _ _ u))
    (fun _ _ hs => ⟨hs.cfg, hs.tfam, hs.inq⟩) ⟨rfl, rfl, rfl⟩ h hseq

/-- Only SET_TFAM and RESET write any of the three. -/
theorem sameSetting_exec {i : Instr} {s t : State} (h : exec i s = .next t) (hreset : i ≠ .reset)
    (htfam : ∀ m, i ≠ .setTfam m) : SameSetting s t := by
  by_cases hseq : i.format = .pseudo
  · exact sameSetting_pseudo h hseq
  · cases exec_handlerEffect h hseq with
    | received _ hsame => exact hsame.setting
    | issued _ cls cw ex chk p => exact ⟨(sameSetting_issue cls cw ex chk p s.opStart).cfg,
        (sameSetting_issue cls cw ex chk p s.opStart).tfam, (sameSetting_issue cls cw ex chk p s.opStart).inq⟩
    | tick => exact ⟨(sameSetting_tick s.opStart).cfg, (sameSetting_tick s.opStart).tfam, (sameSetting_tick s.opStart).inq⟩
    | xerr => exact ⟨(sameSetting_xerr s.opStart).cfg, (sameSetting_xerr s.opStart).tfam, (sameSetting_xerr s.opStart).inq⟩
    | cancel =>
      exact ⟨(sameSetting_cancel s.opStart).cfg, (sameSetting_cancel s.opStart).tfam, (sameSetting_cancel s.opStart).inq⟩
    | setTfam m => exact absurd rfl (htfam m)
    | reset => exact absurd rfl hreset

/-- Settles O5. -/
theorem onlySetTfamAndResetWriteTfam : Obligations.OnlySetTfamAndResetWriteTfam := fun _ _ _ h hreset htfam =>
  (sameSetting_exec h hreset htfam).tfam

/-- No instruction at all writes the parameters or the queue. -/
theorem exec_cfg_inq {i : Instr} {s t : State} (h : exec i s = .next t) : t.cfg = s.cfg ∧ t.inq = s.inq := by
  by_cases hreset : i = .reset
  · subst hreset; cases h; exact ⟨rfl, rfl⟩
  · by_cases htfam : ∃ m, i = .setTfam m
    · obtain ⟨m, rfl⟩ := htfam; cases h; exact ⟨rfl, rfl⟩
    · have hsame := sameSetting_exec h hreset fun m hm => htfam ⟨m, hm⟩
      exact ⟨hsame.cfg, hsame.inq⟩

/-! ### Every instruction answers (00_scope.md R10, R13) -/

theorem toOut_isOk {x : Except Fault State} (h : ∃ t, x = .ok t) : ∃ t, toOut x = .next t := by
  obtain ⟨t, rfl⟩ := h
  exact ⟨t, rfl⟩

theorem seqOut_isOk {x : Except Fault (SeqResult × Schedule × State)} (h : ∃ r, x = .ok r) : ∃ t, seqOut x = .next t := by
  obtain ⟨⟨r, sched, s⟩, rfl⟩ := h
  exact ⟨_, rfl⟩

/-- An operation or a frame answers in every state and build. -/
theorem exec_isOk_of_request {i : Instr} (hfmt : i.format = .op ∨ i.format = .frame) (s : State) :
    ∃ t, exec i s = .next t := by
  cases i
  case tlmMin => exact toOut_isOk (receiveAll_isOk _ _)
  case tlmStd => exact toOut_isOk (receiveAll_isOk _ _)
  case cfgFrame => exact toOut_isOk (receiveAll_isOk _ _)
  case cfgFrameCk => exact toOut_isOk (receiveAll_isOk _ _)
  case rx => exact toOut_isOk (receive_isOk _ _)
  case poll => exact toOut_isOk (poll_isOk _)
  all_goals first | exact ⟨_, rfl⟩ | simp [Instr.format] at hfmt

/-- Settles O52: what a step performs is an operation or a frame. -/
theorem stepNeverFaults : Obligations.StepNeverFaults := by
  intro s f h
  by_cases hq : s.inq = []
  · rw [step_of_idle hq] at h; cases h
  · cases hdec : decode s.cfg s.inq with
    | error e => rw [step_of_error hq hdec] at h; cases h
    | ok x =>
      obtain ⟨i, rest⟩ := x
      obtain ⟨head, ⟨-, hfmt, -⟩, -⟩ := decode_sound hdec
      obtain ⟨t, ht⟩ := exec_isOk_of_request hfmt (s.dequeue rest)
      rw [step_of_decode hdec, ht] at h
      cases h

/-- A well-formed window holds the fields HANDLE_CFG reads (43_command_ack.md R175). -/
theorem cfgFields_of_cfgWindowOk {c : Config} {w : List Byte} (h : cfgWindowOk c w = true) :
    ∃ x, cfgFields w = .ok x := by
  unfold cfgWindowOk at h
  split at h
  · rename_i l0 l1 _ _ _
    simp only [Bool.and_eq_true, decide_eq_true_eq] at h
    have hT : 7 + u16le l0 l1 ≤ cfgTotal c (u16le l0 l1) := by
      unfold cfgTotal
      cases c.cfgTerm <;> simp only <;> omega
    obtain ⟨cw, hf⟩ := cfgFields_ok (a := l0) (b := l1) rfl rfl (by rw [h.2]; omega) (by rw [h.2]; omega)
    exact ⟨_, hf⟩
  · cases h

/-- DECODE_STD answers on a window of `17 + G` bytes (41_telemetry_decoder.md R122). -/
theorem decodeStdWindow_isOk {c : Config} {w : List Byte} (h : w.length = 17 + c.maxGates) :
    ∃ r, decodeStdWindow c w = .ok r := by
  obtain ⟨a0, a1, a2, a3, a4, a5, a6, a7, a8, a9, a10, a11, a12, rest, rfl⟩ := thirteen_bytes w (by omega)
  simp only [List.length_cons] at h
  have hw := decodeStdWindow_eq (c := c) (start4 := [a0, a1, a2, a3]) (energy := rest.take c.maxGates)
    (tail4 := rest.drop c.maxGates) a4 a5 a6 a7 a8 a9 a10 a11 a12 rfl (by rw [List.length_drop]; omega)
    (by rw [List.length_take]; omega)
  rw [List.append_assoc, List.take_append_drop] at hw
  exact ⟨_, hw⟩

theorem exec_isOk {i : Instr} {s : State} (hwf : i.wellFormed s.cfg = true) : ∃ t, exec i s = .next t := by
  cases hfmt : i.format with
  | op => exact exec_isOk_of_request (.inl hfmt) s
  | frame => exact exec_isOk_of_request (.inr hfmt) s
  | command =>
    cases i <;> first | exact ⟨_, rfl⟩ | simp [Instr.format] at hfmt
  | pseudo =>
    cases i
    case enterConfiguration => exact seqOut_isOk (runCommand_isOk _ _ _ _)
    case exitConfiguration => exact seqOut_isOk (runExit_isOk _ _ _)
    case applyConfiguration ps p sched =>
      show ∃ t, execApplyConfiguration ps p sched s = .next t
      unfold execApplyConfiguration
      split
      · exact seqOut_isOk (runApply_isOk _ _ _ _)
      · exact ⟨_, rfl⟩
    all_goals simp [Instr.format] at hfmt
  | micro =>
    cases i
    case extract =>
      obtain ⟨n, evs, r, -, -, hx⟩ := execExtract_eq s
      exact ⟨_, hx⟩
    case drain => exact toOut_isOk (drain_isOk _)
    case handleCfg w =>
      obtain ⟨⟨cw, p⟩, hf⟩ := cfgFields_of_cfgWindowOk hwf
      exact ⟨_, exec_handleCfg_of_fields hf⟩
    case encode cw p =>
      cases henc : encodeFrame s.cfg cw p with
      | some w => exact ⟨_, exec_encode_some henc⟩
      | none => exact ⟨_, exec_encode_none henc⟩
    case decodeMin w =>
      match w, of_decide_eq_true hwf with
      | [w0, w1, w2, w3, w4], _ => exact ⟨_, exec_decodeMin w0 w1 w2 w3 w4 s⟩
    case decodeStd w =>
      have hlen : w.length = 17 + s.cfg.maxGates := of_decide_eq_true hwf
      obtain ⟨r, hr⟩ := decodeStdWindow_isOk hlen
      exact ⟨_, exec_decodeStd_of_window hr⟩
    all_goals first | exact ⟨_, rfl⟩ | simp [Instr.format] at hfmt

/-- Settles O51. -/
theorem everyInstructionCompletes : Obligations.EveryInstructionCompletes := by
  intro i s hwf
  obtain ⟨t, ht⟩ := exec_isOk hwf
  exact ⟨t, ht, exec_cfg_inq ht⟩

end Sys2Proof.Proofs
end

section
/-! Noninterference: a relation between two states that every elementary change keeps is kept by every instruction. From
this the ghost `pos` is never read (10_state.md R24), the queue and the events emitted before an operation are never read,
and the reply registers are not read while they are not valid (10_state.md R26). -/

namespace Sys2Proof.Proofs

open Sys2Proof.Machine Sys2Proof.Spec

/-! ### Computations that follow one another -/

/-- Where `x` answers, `y` answers something related. -/
def Follows {α β : Type} (R : α → β → Prop) (x : Except Fault α) (y : Except Fault β) : Prop :=
  ∀ a, x = .ok a → ∃ b, y = .ok b ∧ R a b

theorem Follows.ok {α β : Type} {R : α → β → Prop} {a : α} {b : β} (h : R a b) :
    Follows R (.ok a) (.ok b) := by
  intro a' ha
  cases ha
  exact ⟨b, rfl, h⟩

theorem Follows.refl {α : Type} (x : Except Fault α) : Follows Eq x x := fun a h => ⟨a, h, rfl⟩

theorem Follows.bind {α β γ δ : Type} {R : α → β → Prop} {Q : γ → δ → Prop} {x : Except Fault α} {y : Except Fault β}
    {f : α → Except Fault γ} {g : β → Except Fault δ} (h : Follows R x y) (hfg : ∀ a b, R a b → Follows Q (f a) (g b)) :
    Follows Q (x >>= f) (y >>= g) := by
  intro c hc
  obtain ⟨a, ha, hc⟩ := bind_eq_ok.mp hc
  obtain ⟨b, hb, hab⟩ := h a ha
  obtain ⟨d, hd, hcd⟩ := hfg a b hab c hc
  exact ⟨d, bind_eq_ok.mpr ⟨b, hb, hd⟩, hcd⟩

/-! ### Simulations -/

/-- A relation that every elementary change keeps, between states that agree on what the operations read. -/
structure Simulation (R : State → State → Prop) : Prop where
  cfg : ∀ {s t}, R s t → t.cfg = s.cfg
  buf : ∀ {s t}, R s t → t.buf = s.buf
  family : ∀ {s t}, R s t → t.family = s.family
  polled : ∀ {s t}, R s t → pollStatus t = pollStatus s ∧ t.pCw = s.pCw ∧ pollReply t = pollReply s
  scanned : ∀ {s t}, R s t → ∀ n evs, R (s.scanned n evs) (t.scanned n evs)
  emit : ∀ {s t}, R s t → ∀ e, R (s.emit e) (t.emit e)
  reply : ∀ {s t}, R s t → ∀ cw p, R (handleReply cw p s) (handleReply cw p t)
  feed : ∀ {s t}, R s t → ∀ b, R (feed b s) (feed b t)
  tick : ∀ {s t}, R s t → R (tick s) (tick t)
  xerr : ∀ {s t}, R s t → R (xerr s) (xerr t)
  cancel : ∀ {s t}, R s t → R (cancel s) (cancel t)
  issue : ∀ {s t}, R s t → ∀ cls cw ex chk p, R (issue cls cw ex chk p s) (issue cls cw ex chk p t) ∧
    (issue cls cw ex chk p t).result = (issue cls cw ex chk p s).result
  setResult : ∀ {s t}, R s t → ∀ r, R (s.setResult r) (t.setResult r)
  setTfam : ∀ {s t}, R s t → ∀ m, R { s with tfam := m } { t with tfam := m }

section

variable {R : State → State → Prop} (sim : Simulation R)

/-- Related states with equal second parts. -/
def RelFst {α : Type} (R : State → State → Prop) (x y : State × α) : Prop := R x.1 y.1 ∧ y.2 = x.2

/-- Equal first parts and related states behind them: what the parts of a host sequence answer. -/
def RelSnd {α β : Type} (R : State → State → Prop) (x y : α × β × State) : Prop :=
  y.1 = x.1 ∧ y.2.1 = x.2.1 ∧ R x.2.2 y.2.2

include sim

theorem Simulation.extractLoop (f : Family) : ∀ (fuel : Nat) {s t : State}, R s t →
    Follows (RelFst R) (extractLoop f fuel s) (extractLoop f fuel t) := by
  intro fuel
  induction fuel with
  | zero => intro s t _ a h; cases h
  | succ fuel ih =>
    intro s t h
    have hremove : ∀ {u v : State} (n : Nat), R u v → R (u.removePrefix n) (v.removePrefix n) := by
      intro u v n huv
      rw [State.removePrefix_eq_scanned, State.removePrefix_eq_scanned]
      exact sim.scanned huv n []
    simp only [Machine.extractLoop, sim.buf h]
    cases firstMatch s.buf (startMarker f) with
    | none => exact .ok ⟨hremove _ h, rfl⟩
    | some i =>
      have hi := hremove i h
      simp only [sim.buf hi, sim.cfg hi]
      refine .bind (.refl _) ?_
      rintro header _ rfl
      cases header with
      | needMore => exact .ok ⟨hi, rfl⟩
      | bad => simp only [State.raise_formatError_eq]; exact ih (sim.scanned hi _ _)
      | total T =>
        by_cases hshort : (s.removePrefix i).buf.length < T
        · simp only [hshort, if_true]; exact .ok ⟨hi, rfl⟩
        · simp only [hshort, if_false]
          refine .bind (.refl _) ?_
          rintro w _ rfl
          refine .bind (.refl _) ?_
          rintro ok _ rfl
          cases ok with
          | true => exact .ok ⟨hremove T hi, rfl⟩
          | false =>
            simp only [Bool.false_eq_true, if_false, State.raise_tailError_eq]
            exact ih (sim.scanned hi _ _)

theorem Simulation.extract {s t : State} (h : R s t) : Follows (RelFst R) (extract s) (extract t) := by
  simp only [Machine.extract, sim.buf h, sim.family h]
  exact sim.extractLoop _ _ h

theorem Simulation.handleCfg {s t : State} (h : R s t) (w : List Byte) : Follows R (handleCfg w s) (handleCfg w t) := by
  refine .bind (.refl _) ?_
  rintro ⟨cw, p⟩ _ rfl
  exact .ok (sim.reply h cw p)

theorem Simulation.dispatchFrame {s t : State} (h : R s t) (f : Family) (w : List Byte) :
    Follows R (dispatchFrame f w s) (dispatchFrame f w t) := by
  cases f with
  | min =>
    simp only [Machine.dispatchFrame, sim.cfg h]
    refine .bind (.refl _) ?_
    rintro (_ | r) _ rfl
    · exact .ok h
    · exact .ok (sim.emit h _)
  | std =>
    simp only [Machine.dispatchFrame, sim.cfg h]
    refine .bind (.refl _) ?_
    rintro (_ | r) _ rfl
    · exact .ok h
    · exact .ok (sim.emit h _)
  | cfg => exact sim.handleCfg h w

theorem Simulation.drainLoop : ∀ (fuel : Nat) {s t : State}, R s t →
    Follows R (drainLoop fuel s) (drainLoop fuel t) := by
  intro fuel
  induction fuel with
  | zero => intro s t _ a h; cases h
  | succ fuel ih =>
    intro s t h
    refine .bind (sim.extract h) ?_
    rintro ⟨u, _⟩ ⟨v, r⟩ ⟨huv, rfl⟩
    cases r with
    | none => exact .ok huv
    | some w =>
      simp only [sim.family h]
      exact .bind (sim.dispatchFrame huv _ w) fun _ _ h => ih h

theorem Simulation.drain {s t : State} (h : R s t) : Follows R (drain s) (drain t) := by
  simp only [Machine.drain, sim.buf h]
  exact sim.drainLoop _ h

theorem Simulation.receive {s t : State} (h : R s t) (b : Byte) : Follows R (receive b s) (receive b t) :=
  sim.drain (sim.feed h b)

theorem Simulation.receiveAll (bs : List Byte) : ∀ {s t : State}, R s t →
    Follows R (receiveAll bs s) (receiveAll bs t) := by
  induction bs with
  | nil => exact fun h => .ok h
  | cons b bs ih => exact fun h => .bind (sim.receive h b) fun _ _ h => ih h

theorem Simulation.poll {s t : State} (h : R s t) : Follows R (poll s) (poll t) := by
  refine .bind (sim.drain h) fun u v huv => .ok ?_
  obtain ⟨hstatus, hcw, hreply⟩ := sim.polled huv
  rw [hstatus, hcw, hreply]
  exact sim.setResult huv _

/-! ### Host sequences -/

theorem Simulation.runEnv (es : List EnvOp) : ∀ {s t : State}, R s t → Follows R (runEnv es s) (runEnv es t) := by
  induction es with
  | nil => exact fun h => .ok h
  | cons e es ih =>
    intro s t h
    refine .bind ?_ fun _ _ h => ih h
    cases e with
    | rx b => exact sim.receive h b
    | tick => exact .ok (sim.tick h)
    | xerr => exact .ok (sim.xerr h)

theorem Simulation.nextSlot (sched : Schedule) {s t : State} (h : R s t) :
    Follows (fun x y => y.1 = x.1 ∧ R x.2 y.2) (nextSlot sched s) (nextSlot sched t) := by
  cases sched with
  | nil => exact .ok ⟨rfl, h⟩
  | cons es rest => exact .bind (sim.runEnv es h) fun _ _ h => .ok ⟨rfl, h⟩

theorem Simulation.await (sched : Schedule) : ∀ {s t : State}, R s t →
    Follows (RelSnd R) (await sched s) (await sched t) := by
  induction sched with
  | nil =>
    intro s t h
    refine .bind (sim.poll h) fun u v huv => ?_
    rw [(sim.polled huv).1]
    split
    · exact .ok ⟨rfl, rfl, huv⟩
    · exact .ok ⟨rfl, rfl, huv⟩
  | cons es rest ih =>
    intro s t h
    refine .bind (sim.runEnv es h) fun u v huv => .bind (sim.poll huv) fun u v huv => ?_
    rw [(sim.polled huv).1]
    split
    · exact ih huv
    · exact .ok ⟨rfl, rfl, huv⟩

theorem Simulation.issueCommand {s t : State} (h : R s t) (m : Command) (p : List Byte) :
    R (issueCommand m p s) (issueCommand m p t) ∧ (issueCommand m p t).result = (issueCommand m p s).result := by
  simp only [Machine.issueCommand, sim.cfg h]
  exact sim.issue h _ _ _ _ _

theorem Simulation.attempts (m : Command) (p : List Byte) (n : Nat) : ∀ (last : SeqError) (sched : Schedule)
    {s t : State}, R s t → Follows (RelSnd R) (attempts m p n last sched s) (attempts m p n last sched t) := by
  induction n with
  | zero => exact fun last sched s t h => .ok ⟨rfl, rfl, h⟩
  | succ n ih =>
    intro last sched s t h
    refine .bind (sim.nextSlot sched h) ?_
    rintro ⟨_, u⟩ ⟨sched1, v⟩ ⟨rfl, huv⟩
    obtain ⟨hissue, hresult⟩ := sim.issueCommand huv m p
    simp only [hresult]
    split
    · refine .bind (sim.await _ hissue) ?_
      rintro ⟨_, _, x⟩ ⟨r, sched2, y⟩ ⟨rfl, rfl, hxy⟩
      simp only
      split
      · exact .ok ⟨rfl, rfl, hxy⟩
      · exact .ok ⟨rfl, rfl, hxy⟩
      · exact ih _ _ hxy
    · exact .ok ⟨rfl, rfl, hissue⟩

theorem Simulation.runCommand (m : Command) (p : List Byte) (sched : Schedule) {s t : State} (h : R s t) :
    Follows (RelSnd R) (runCommand m p sched s) (runCommand m p sched t) := by
  simp only [Machine.runCommand, sim.cfg h]
  exact sim.attempts m p _ _ _ h

theorem Simulation.runExit (p : List Byte) (sched : Schedule) {s t : State} (h : R s t) :
    Follows (RelSnd R) (runExit p sched s) (runExit p sched t) := by
  refine .bind (.bind (sim.nextSlot sched h) ?_) (R := fun x y => y.1 = x.1 ∧ R x.2 y.2) ?_
  · rintro ⟨_, u⟩ ⟨sched1, v⟩ ⟨rfl, huv⟩
    exact .ok ⟨rfl, sim.cancel huv⟩
  · rintro ⟨_, u⟩ ⟨sched1, v⟩ ⟨rfl, huv⟩
    exact sim.runCommand _ _ _ huv

theorem Simulation.runGroups (gs : List (Command × List Byte)) : ∀ (sched : Schedule) {s t : State}, R s t →
    Follows (RelSnd R) (runGroups gs sched s) (runGroups gs sched t) := by
  induction gs with
  | nil => exact fun sched s t h => .ok ⟨rfl, rfl, h⟩
  | cons g gs ih =>
    intro sched s t h
    refine .bind (sim.runCommand g.1 g.2 sched h) ?_
    rintro ⟨_, _, u⟩ ⟨r, sched1, v⟩ ⟨rfl, rfl, huv⟩
    cases r with
    | success => exact ih _ huv
    | error e => exact .ok ⟨rfl, rfl, huv⟩
    | waiting => exact .ok ⟨rfl, rfl, huv⟩

theorem Simulation.runEnterAndGroups (ps : ParamSet) (p : Payloads) (sched : Schedule) {s t : State} (h : R s t) :
    Follows (RelSnd R) (runEnterAndGroups ps p sched s) (runEnterAndGroups ps p sched t) := by
  refine .bind (sim.runCommand _ _ sched h) ?_
  rintro ⟨_, _, u⟩ ⟨r, sched1, v⟩ ⟨rfl, rfl, huv⟩
  cases r with
  | success => exact sim.runGroups _ _ huv
  | error e => exact .ok ⟨rfl, rfl, huv⟩
  | waiting => exact .ok ⟨rfl, rfl, huv⟩

theorem Simulation.runApply (ps : ParamSet) (p : Payloads) (sched : Schedule) {s t : State} (h : R s t) :
    Follows (RelSnd R) (runApply ps p sched s) (runApply ps p sched t) := by
  refine .bind (sim.runEnterAndGroups ps p sched h) ?_
  rintro ⟨_, _, u⟩ ⟨r, sched1, v⟩ ⟨rfl, rfl, huv⟩
  have hexit : ∀ r, Follows (RelSnd R)
      (do let (e, sched, s) ← Machine.runExit p.exit sched1 u; .ok (firstError r e, sched, s))
      (do let (e, sched, s) ← Machine.runExit p.exit sched1 v; .ok (firstError r e, sched, s)) := by
    intro r
    refine .bind (sim.runExit _ _ huv) ?_
    rintro ⟨_, _, x⟩ ⟨e, sched2, y⟩ ⟨rfl, rfl, hxy⟩
    exact .ok ⟨rfl, rfl, hxy⟩
  cases r with
  | waiting => exact .ok ⟨rfl, rfl, huv⟩
  | success => exact hexit _
  | error e => exact hexit _

/-! ### Every instruction -/

omit sim in
theorem follows_toOut {x y : Except Fault State} (h : Follows R x y) {u : State} (hx : toOut x = .next u) :
    ∃ v, toOut y = .next v ∧ R u v := by
  obtain ⟨v, hv, huv⟩ := h u (toOut_next.mp hx)
  exact ⟨v, toOut_next.mpr hv, huv⟩

theorem Simulation.seqOut {x y : Except Fault (SeqResult × Schedule × State)} (h : Follows (RelSnd R) x y) {u : State}
    (hx : seqOut x = .next u) : ∃ v, seqOut y = .next v ∧ R u v := by
  cases x with
  | error e => cases hx
  | ok a =>
    obtain ⟨r, sched, s⟩ := a
    obtain ⟨⟨_, _, t⟩, rfl, ⟨rfl, rfl, hst⟩⟩ := h _ rfl
    cases hx
    exact ⟨_, rfl, sim.setResult hst _⟩

/-- Every instruction but RESET keeps the relation, from the start of the operation on. -/
theorem Simulation.exec {i : Instr} {s t u : State} (h : R s.opStart t.opStart) (hreset : i ≠ .reset)
    (hx : exec i s = .next u) : ∃ v, exec i t = .next v ∧ R u v := by
  have hcfg : t.cfg = s.cfg := (sim.cfg h :)
  have hset : ∀ r, R (s.opStart.setResult r) (t.opStart.setResult r) := fun r => sim.setResult h r
  cases hcmd : i.command? with
  | some mp =>
    rw [exec_command hcmd] at hx
    cases hx
    exact ⟨_, exec_command hcmd t, (sim.issueCommand h _ _).1⟩
  | none =>
    cases i
    case tlmMin => exact follows_toOut (sim.receiveAll _ h) hx
    case tlmStd =>
      simp only [Machine.exec, execTlmStd, hcfg] at hx ⊢
      exact follows_toOut (sim.receiveAll _ h) hx
    case cfgFrame => exact follows_toOut (sim.receiveAll _ h) hx
    case cfgFrameCk => exact follows_toOut (sim.receiveAll _ h) hx
    case rx b => exact follows_toOut (sim.receive h b) hx
    case poll => exact follows_toOut (sim.poll h) hx
    case drain => exact follows_toOut (sim.drain h) hx
    case handleCfg w => exact follows_toOut (sim.handleCfg h w) hx
    case tick => cases hx; exact ⟨_, rfl, sim.tick h⟩
    case xerr => cases hx; exact ⟨_, rfl, sim.xerr h⟩
    case cancel => cases hx; exact ⟨_, rfl, sim.cancel h⟩
    case issue => cases hx; exact ⟨_, rfl, (sim.issue h _ _ _ _ _).1⟩
    case setTfam m => cases hx; exact ⟨_, rfl, sim.setTfam h m⟩
    case feed b => cases hx; exact ⟨_, rfl, sim.feed h b⟩
    case nop => cases hx; exact ⟨_, rfl, h⟩
    case reservedOp => cases hx; exact ⟨_, rfl, hset _⟩
    case checksum => cases hx; exact ⟨_, rfl, hset _⟩
    case matchMarker => cases hx; exact ⟨_, rfl, hset _⟩
    case reset => exact absurd rfl hreset
    case extract =>
      obtain ⟨n, evs, r, hs, -, -, -⟩ := extract_spec s.opStart
      obtain ⟨⟨v, r'⟩, hv, ⟨huv, hr⟩⟩ := sim.extract h _ hs
      simp only at hr huv
      subst hr
      have hfam : t.family = s.family := (sim.family h :)
      simp only [Machine.exec, execExtract, hs, hv, hfam] at hx ⊢
      cases r' with
      | none => cases hx; exact ⟨_, rfl, sim.setResult huv _⟩
      | some w => cases hx; exact ⟨_, rfl, sim.setResult huv _⟩
    case family =>
      have hfam : t.family = s.family := (sim.family h :)
      cases hx
      refine ⟨t.opStart.setResult (.family t.family), rfl, ?_⟩
      rw [hfam]
      exact hset _
    case presence st =>
      cases hx
      refine ⟨t.opStart.setResult (.bit (presenceOf t.cfg st)), rfl, ?_⟩
      rw [show presenceOf t.cfg st = presenceOf s.cfg st by rw [hcfg]]
      exact hset _
    case encode cw p =>
      cases henc : encodeFrame s.cfg cw p with
      | some w =>
        rw [exec_encode_some henc] at hx
        cases hx
        exact ⟨_, exec_encode_some (hcfg ▸ henc), hset _⟩
      | none =>
        rw [exec_encode_none henc] at hx
        cases hx
        exact ⟨_, exec_encode_none (hcfg ▸ henc), hset _⟩
    case decodeMin w =>
      simp only [Machine.exec, execDecodeMin, hcfg] at hx ⊢
      cases hw : decodeMinWindow s.cfg w with
      | error e => rw [hw] at hx; cases hx
      | ok r => rw [hw] at hx; cases r <;> (cases hx; exact ⟨_, rfl, hset _⟩)
    case decodeStd w =>
      simp only [Machine.exec, execDecodeStd, hcfg] at hx ⊢
      cases hw : decodeStdWindow s.cfg w with
      | error e => rw [hw] at hx; cases hx
      | ok r => rw [hw] at hx; cases r <;> (cases hx; exact ⟨_, rfl, hset _⟩)
    case enterConfiguration p sched => exact sim.seqOut (sim.runCommand _ p sched h) hx
    case exitConfiguration p sched => exact sim.seqOut (sim.runExit p sched h) hx
    case applyConfiguration ps p sched =>
      simp only [Machine.exec, execApplyConfiguration, hcfg] at hx ⊢
      split at hx
      · rename_i hrange
        rw [if_pos hrange]
        exact sim.seqOut (sim.runApply ps p sched h) hx
      · rename_i hrange
        rw [if_neg hrange]
        cases hx
        exact ⟨_, rfl, hset _⟩
    all_goals cases hcmd

end

end Sys2Proof.Proofs
end

section
/-! What no instruction reads: the ghost `pos` (10_state.md R24), the queue, the events an earlier operation has emitted,
and the reply registers while they are not valid (10_state.md R26). -/

namespace Sys2Proof.Proofs

open Sys2Proof.Machine Sys2Proof.Spec

/-! ### The ghost position, the queue, and earlier outputs -/

/-- The state with `pos` larger by `k`, the queue `q`, the events `es` before its own, and the result `r`. -/
def shift (k : Nat) (q : List Byte) (es : List Event) (r : OpResult) (s : State) : State :=
  { s with pos := s.pos + k, inq := q, events := es ++ s.events, result := r }

/-- A change of state that neither reads nor writes queue and result, and adds to `pos` and to the events. -/
def Local (f : State → State) : Prop :=
  ∀ k q es r s, f (shift k q es r s) = shift k q es r (f s) ∧ (f s).result = s.result

section

variable {k : Nat} {q : List Byte} {es : List Event} {r : OpResult}

theorem local_emit (e : Event) : Local (State.emit e) :=
  fun _ _ _ _ _ => ⟨by simp only [State.emit, shift, List.append_assoc], rfl⟩

theorem local_removePrefix (n : Nat) : Local (State.removePrefix n) :=
  fun _ _ _ _ _ => ⟨by simp only [State.removePrefix, shift, Nat.add_right_comm], rfl⟩

theorem local_clearBuf : Local State.clearBuf :=
  fun _ _ _ _ _ => ⟨by simp only [State.clearBuf, shift, Nat.add_right_comm], rfl⟩

theorem local_failCommand (reason : FailReason) : Local (State.failCommand reason) := fun _ _ _ _ _ => ⟨rfl, rfl⟩

theorem local_appendByte (b : Byte) : Local (State.appendByte b) := fun _ _ _ _ _ => ⟨rfl, rfl⟩

theorem local_storeReply (cw : Word16) (p : List Byte) : Local (State.storeReply cw p) := fun _ _ _ _ _ => ⟨rfl, rfl⟩

theorem local_ackCommand : Local State.ackCommand := fun _ _ _ _ _ => ⟨rfl, rfl⟩

theorem local_recordCommand (cls : CmdClass) (cw ex : Word16) (chk : Bool) : Local (State.recordCommand cls cw ex chk) :=
  fun _ _ _ _ _ => ⟨rfl, rfl⟩

theorem local_id : Local id := fun _ _ _ _ _ => ⟨rfl, rfl⟩

theorem Local.comp {f g : State → State} (hf : Local f) (hg : Local g) : Local fun s => f (g s) :=
  fun k q es r s => ⟨(congrArg f (hg k q es r s).1).trans (hf k q es r (g s)).1, (hf k q es r (g s)).2.trans (hg k q es r s).2⟩

/-- A choice between two local changes by what `shift` leaves alone is local. -/
theorem Local.ite {c : State → Prop} [DecidablePred c] {f g : State → State} (hf : Local f) (hg : Local g)
    (hc : ∀ k q es r s, c (shift k q es r s) ↔ c s) : Local fun s => if c s then f s else g s := by
  intro k q es r s
  simp only [hc]
  split
  · exact hf k q es r s
  · exact hg k q es r s

theorem local_scanned (n : Nat) (evs : List Event) : Local (State.scanned n evs) :=
  fun _ _ _ _ _ => ⟨by simp only [State.scanned, State.emitAll, State.removePrefix, shift, Nat.add_right_comm,
    List.append_assoc], rfl⟩

theorem local_feed (b : Byte) : Local (feed b) := by
  refine Local.ite (local_appendByte b) ?_ fun _ _ _ _ _ => Iff.rfl
  intro k q es r s
  exact (local_emit _).comp ((local_removePrefix _).comp (local_appendByte b)) k q es r s

theorem local_tick : Local tick := by
  refine Local.ite ?_ local_id fun _ _ _ _ _ => Iff.rfl
  have hcount : Local fun s => { s with tmoCnt := s.tmoCnt - 1 } := fun _ _ _ _ _ => ⟨rfl, rfl⟩
  have htimeout : Local fun s => State.emit .cmdTimeout (State.failCommand .timeout { s with tmoCnt := s.tmoCnt - 1 }) :=
    (local_emit _).comp ((local_failCommand _).comp hcount)
  exact Local.ite (c := fun s => s.tmoCnt - 1 = 0) htimeout hcount fun _ _ _ _ _ => Iff.rfl

theorem local_xerr : Local xerr :=
  Local.ite ((local_emit _).comp ((local_failCommand _).comp local_clearBuf)) local_clearBuf fun _ _ _ _ _ => Iff.rfl

theorem local_cancel : Local cancel :=
  Local.ite (fun _ _ _ _ _ => ⟨rfl, rfl⟩) local_id fun _ _ _ _ _ => Iff.rfl

theorem local_handleReply (cw : Word16) (p : List Byte) : Local (handleReply cw p) := by
  have haccept : Local (accept cw p) :=
    Local.ite ((local_emit _).comp (local_ackCommand.comp (local_storeReply cw p)))
      ((local_emit _).comp ((local_failCommand _).comp (local_storeReply cw p))) fun _ _ _ _ _ => Iff.rfl
  have hstray : Local fun s => if s.hs = .sent then (s.raise .invalidReply).emit (.stray cw p) else s.emit (.stray cw p) :=
    Local.ite ((local_emit _).comp (local_emit _)) (local_emit _) fun _ _ _ _ _ => Iff.rfl
  exact Local.ite haccept hstray fun _ _ _ _ _ => Iff.rfl

/-- ISSUE answers the same, and changes the state by a local change and the result. -/
theorem issue_shift (cls : BitVec 2) (cw ex : Word16) (chk : Bool) (p : List Byte) (s : State) :
    issue cls cw ex chk p (shift k q es r s) =
      shift k q es (issue cls cw ex chk p s).result (issue cls cw ex chk p s) := by
  have hissued : ∀ cls frame, Local fun s => State.recordCommand cls cw ex chk
      (State.emit (.tx frame) (State.clearBuf (State.emit .flushInput s))) := fun cls frame =>
    (local_recordCommand cls cw ex chk).comp ((local_emit _).comp (local_clearBuf.comp (local_emit _)))
  by_cases hs : s.hs = .sent
  · have hs' : (shift k q es r s).hs = .sent := hs
    simp only [issue, if_pos hs, if_pos hs']
    rfl
  · have hs' : ¬ (shift k q es r s).hs = .sent := hs
    have hcfg : (shift k q es r s).cfg = s.cfg := rfl
    simp only [issue, if_neg hs, if_neg hs', hcfg]
    split
    · rename_i cls' frame _ _
      split
      · rfl
      · exact congrArg (State.setResult .ok) (hissued cls' frame k q es r s).1
    · rfl

/-- `t` is `s` shifted; where `strict`, with the same result. -/
def Shifted (strict : Prop) (k : Nat) (q : List Byte) (es : List Event) (s t : State) : Prop :=
  ∃ r, t = shift k q es r s ∧ (strict → r = s.result)

variable {strict : Prop}

theorem Shifted.of_local {f : State → State} (hf : Local f) {s t : State} (h : Shifted strict k q es s t) :
    Shifted strict k q es (f s) (f t) := by
  obtain ⟨r, rfl, hr⟩ := h
  exact ⟨r, (hf k q es r s).1, fun hstrict => (hr hstrict).trans (hf k q es r s).2.symm⟩

/-- No operation reads `pos`, the queue, or what has been emitted and answered before. -/
theorem simulation_shifted (strict : Prop) (k : Nat) (q : List Byte) (es : List Event) :
    Simulation (Shifted strict k q es) where
  cfg := by rintro s _ ⟨r, rfl, -⟩; rfl
  buf := by rintro s _ ⟨r, rfl, -⟩; rfl
  family := by rintro s _ ⟨r, rfl, -⟩; rfl
  polled := by rintro s _ ⟨r, rfl, -⟩; exact ⟨rfl, rfl, rfl⟩
  scanned h n evs := h.of_local (local_scanned n evs)
  emit h e := h.of_local (local_emit e)
  reply h cw p := h.of_local (local_handleReply cw p)
  feed h b := h.of_local (local_feed b)
  tick h := h.of_local local_tick
  xerr h := h.of_local local_xerr
  cancel h := h.of_local local_cancel
  issue := by
    rintro s _ ⟨r, rfl, -⟩ cls cw ex chk p
    exact ⟨⟨_, issue_shift cls cw ex chk p s, fun _ => rfl⟩, by rw [issue_shift]; rfl⟩
  setResult := by
    rintro s _ ⟨r, rfl, -⟩ r'
    exact ⟨r', rfl, fun _ => rfl⟩
  setTfam := by
    rintro s _ ⟨r, rfl, hr⟩ m
    exact ⟨r, rfl, hr⟩

end

/-- Settles O59: a state with another `pos` is a shifted one, and only RESET writes `pos` from outside. -/
theorem positionIsNeverRead : Obligations.PositionIsNeverRead := by
  intro i s t k h hreset
  have hstart : Shifted True k s.inq [] s.opStart { s with pos := s.pos + k }.opStart := ⟨.none, rfl, fun _ => rfl⟩
  obtain ⟨_, hv, r, rfl, hr⟩ := (simulation_shifted True k s.inq []).exec hstart hreset h
  rw [hv, hr trivial, shift, ← (exec_cfg_inq h).2]
  rfl

/-! ### The reply registers -/

/-- The state with other contents in the reply registers. -/
def withReply (cw : Word16) (n : Nat) (p : List Byte) (s : State) : State :=
  { s with rpCw := cw, rpLen := n, rpPayload := p }

/-- `t` is `s`, or differs from it in reply registers that are not valid. -/
def ReplyHidden (s t : State) : Prop :=
  t = s ∨ s.rpValid = false ∧ ∃ cw n p, t = withReply cw n p s

theorem ReplyHidden.of_commutes {f : State → State} (hf : ∀ cw n p s, s.rpValid = false →
      f (withReply cw n p s) = f s ∨ f (withReply cw n p s) = withReply cw n p (f s) ∧ (f s).rpValid = false)
    {s t : State} (h : ReplyHidden s t) : ReplyHidden (f s) (f t) := by
  rcases h with rfl | ⟨hinv, cw, n, p, rfl⟩
  · exact .inl rfl
  · rcases hf cw n p s hinv with he | ⟨he, hinv'⟩
    · exact .inl he
    · exact .inr ⟨hinv', cw, n, p, he⟩

theorem rpValid_eq_false {s : State} : s.rpValid = false ↔ s.hs ≠ .acked ∧ (s.hs = .failed → s.failReason ≠ .rejected) := by
  simp [State.rpValid]

theorem rpValid_of_sent {s : State} (h : s.hs = .sent) : s.rpValid = false := by simp [State.rpValid, h]

/-- The reply POLL reports is empty while the registers are not valid (43_command_ack.md R179). -/
theorem pollReply_of_invalid {s : State} (h : s.rpValid = false) : pollReply s = none := by
  obtain ⟨hacked, hrejected⟩ := rpValid_eq_false.mp h
  unfold pollReply pollStatus
  cases hhs : s.hs with
  | idle => rfl
  | sent => rfl
  | acked => exact absurd hhs hacked
  | failed =>
    cases hreason : s.failReason with
    | none => rfl
    | timeout => rfl
    | transport => rfl
    | rejected => exact absurd hreason (hrejected hhs)

theorem handleReply_withReply (cw' : Word16) (p' : List Byte) (cw : Word16) (n : Nat) (p : List Byte) (s : State)
    (hinv : s.rpValid = false) :
    handleReply cw' p' (withReply cw n p s) = handleReply cw' p' s ∨
      handleReply cw' p' (withReply cw n p s) = withReply cw n p (handleReply cw' p' s) ∧
        (handleReply cw' p' s).rpValid = false := by
  by_cases hacc : s.hs = .sent ∧ cw' = s.pExpect
  · have hacc' : (withReply cw n p s).hs = .sent ∧ cw' = (withReply cw n p s).pExpect := hacc
    exact .inl (by rw [handleReply, if_pos hacc', handleReply, if_pos hacc]; rfl)
  · have hacc' : ¬ ((withReply cw n p s).hs = .sent ∧ cw' = (withReply cw n p s).pExpect) := hacc
    refine .inr ?_
    rw [handleReply, if_neg hacc', handleReply, if_neg hacc]
    by_cases hs : s.hs = .sent
    · have hs' : (withReply cw n p s).hs = .sent := hs
      rw [if_pos hs, if_pos hs']
      exact ⟨rfl, hinv⟩
    · have hs' : ¬ (withReply cw n p s).hs = .sent := hs
      rw [if_neg hs, if_neg hs']
      exact ⟨rfl, hinv⟩

theorem issue_withReply (cls : BitVec 2) (cw' ex : Word16) (chk : Bool) (p' : List Byte) (cw : Word16) (n : Nat)
    (p : List Byte) (s : State) (hinv : s.rpValid = false) :
    issue cls cw' ex chk p' (withReply cw n p s) = withReply cw n p (issue cls cw' ex chk p' s) ∧
      (issue cls cw' ex chk p' s).rpValid = false := by
  refine ⟨?_, ?_⟩
  · have hcfg : (withReply cw n p s).cfg = s.cfg := rfl
    by_cases hs : s.hs = .sent
    · have hs' : (withReply cw n p s).hs = .sent := hs
      simp only [issue, if_pos hs, if_pos hs']
      rfl
    · have hs' : ¬ (withReply cw n p s).hs = .sent := hs
      simp only [issue, if_neg hs, if_neg hs', hcfg]
      split
      · split <;> rfl
      · rfl
  · rcases issue_cases cls cw' ex chk p' s with ⟨he, -⟩ | ⟨he, -⟩ | ⟨-, k, frame, -, -, -, he⟩ <;> rw [he]
    · exact hinv
    · exact hinv
    · exact rpValid_of_sent rfl

/-- No operation reads the reply registers while they are not valid. -/
theorem simulation_replyHidden : Simulation ReplyHidden where
  cfg := by rintro s _ (rfl | ⟨-, cw, n, p, rfl⟩) <;> rfl
  buf := by rintro s _ (rfl | ⟨-, cw, n, p, rfl⟩) <;> rfl
  family := by rintro s _ (rfl | ⟨-, cw, n, p, rfl⟩) <;> rfl
  polled := by
    rintro s _ (rfl | ⟨hinv, cw, n, p, rfl⟩)
    · exact ⟨rfl, rfl, rfl⟩
    · have hinv' : (withReply cw n p s).rpValid = false := hinv
      exact ⟨rfl, rfl, by rw [pollReply_of_invalid hinv, pollReply_of_invalid hinv']⟩
  scanned h n evs := h.of_commutes (f := State.scanned n evs) fun _ _ _ _ hinv => .inr ⟨rfl, hinv⟩
  emit h e := h.of_commutes (f := State.emit e) fun _ _ _ _ hinv => .inr ⟨rfl, hinv⟩
  reply h cw p := h.of_commutes fun _ _ _ _ hinv => handleReply_withReply cw p _ _ _ _ hinv
  feed h b := h.of_commutes fun cw n p s hinv => by
    rcases feed_cases b s with ⟨hroom, he⟩ | ⟨hfull, he⟩ <;>
      rcases feed_cases b (withReply cw n p s) with ⟨hroom', he'⟩ | ⟨hfull', he'⟩
    · rw [he, he']; exact .inr ⟨rfl, hinv⟩
    · exact absurd hroom (Nat.not_lt.mpr hfull')
    · exact absurd hroom' (Nat.not_lt.mpr hfull)
    · rw [he, he']; exact .inr ⟨rfl, hinv⟩
  tick h := h.of_commutes fun cw n p s hinv => by
    by_cases hs : s.hs = .sent
    · have hs' : (withReply cw n p s).hs = .sent := hs
      simp only [tick, if_pos hs, if_pos hs']
      split
      · rename_i h0
        rw [if_pos (show s.tmoCnt - 1 = 0 from h0)]
        exact .inr ⟨rfl, by simp [State.raise, State.rpValid]⟩
      · rename_i h0
        rw [if_neg (show ¬ s.tmoCnt - 1 = 0 from h0)]
        exact .inr ⟨rfl, hinv⟩
    · rw [tick_of_not_sent hs, tick_of_not_sent (s := withReply cw n p s) hs]
      exact .inr ⟨rfl, hinv⟩
  xerr h := h.of_commutes fun cw n p s hinv => by
    rcases xerr_cases s with ⟨hs, he⟩ | ⟨hs, he⟩ <;>
      rcases xerr_cases (withReply cw n p s) with ⟨hs', he'⟩ | ⟨hs', he'⟩
    · rw [he, he']; exact .inr ⟨rfl, hinv⟩
    · exact absurd hs' hs
    · exact absurd hs hs'
    · rw [he, he']; exact .inr ⟨rfl, by simp [State.rpValid]⟩
  cancel h := h.of_commutes fun cw n p s hinv => by
    rcases cancel_cases s with ⟨hs, he⟩ | ⟨hs, he⟩ <;>
      rcases cancel_cases (withReply cw n p s) with ⟨hs', he'⟩ | ⟨hs', he'⟩
    · rw [he, he']; exact .inr ⟨rfl, hinv⟩
    · exact absurd hs' hs
    · exact absurd hs hs'
    · rw [he, he']; exact .inr ⟨rfl, by simp [State.rpValid]⟩
  issue := by
    rintro s _ (rfl | ⟨hinv, cw, n, p, rfl⟩) cls cw' ex chk p'
    · exact ⟨.inl rfl, rfl⟩
    · obtain ⟨he, hinv'⟩ := issue_withReply cls cw' ex chk p' cw n p s hinv
      exact ⟨.inr ⟨hinv', cw, n, p, he⟩, by rw [he]; rfl⟩
  setResult h r := h.of_commutes (f := State.setResult r) fun _ _ _ _ hinv => .inr ⟨rfl, hinv⟩
  setTfam h m := h.of_commutes (f := fun s => { s with tfam := m }) fun _ _ _ _ hinv => .inr ⟨rfl, hinv⟩

theorem sameButReply_of_replyHidden {s t : State} (h : ReplyHidden s t) :
    SameButReply s t ∧ (s.rpValid = true → t = s) := by
  rcases h with rfl | ⟨hinv, cw, n, p, rfl⟩
  · exact ⟨rfl, fun _ => rfl⟩
  · exact ⟨rfl, fun hvalid => by rw [hinv] at hvalid; cases hvalid⟩

/-- Settles O60: RESET reads the parameters and the queue only; every other instruction keeps the relation. -/
theorem invalidReplyRegistersAreNeverRead : Obligations.InvalidReplyRegistersAreNeverRead := by
  intro i s s' t hsame hinv h
  by_cases hreset : i = .reset
  · subst hreset
    cases h
    exact ⟨_, exec_reset s', by rw [hsame]; rfl, fun _ => by rw [hsame]; rfl⟩
  · have hstart : ReplyHidden s.opStart s'.opStart := .inr ⟨hinv, s'.rpCw, s'.rpLen, s'.rpPayload, by rw [hsame]; rfl⟩
    obtain ⟨t', ht', hrel⟩ := simulation_replyHidden.exec hstart hreset h
    exact ⟨t', ht', sameButReply_of_replyHidden hrel⟩

end Sys2Proof.Proofs
end

section
/-! EXTRACT is one walk over the bytes from left to right (42_stream_synchronizer.md R142 to R148), and finds a frame
behind noise without a start marker (R144, R155). -/

namespace Sys2Proof.Proofs

open Sys2Proof.Machine Sys2Proof.Spec

/-! ### The candidate at the front -/

/-- The verdict on a candidate, in terms of the model's header and tail tests (R146, R147). -/
inductive Judged (c : Config) (f : Family) (buf : List Byte) : Verdict → Prop where
  | needMore (hh : headerLength c f buf = .ok .needMore) : Judged c f buf .wait
  | incomplete {T : Nat} (hh : headerLength c f buf = .ok (.total T)) (hlen : buf.length < T) : Judged c f buf .wait
  | badLength (hh : headerLength c f buf = .ok .bad) : Judged c f buf (.reject .formatError)
  | badTail {T : Nat} (hh : headerLength c f buf = .ok (.total T)) (hlen : T ≤ buf.length)
      (ht : tailOk c f (buf.take T) = .ok false) : Judged c f buf (.reject (tailDiag c f))
  | whole {T : Nat} (hh : headerLength c f buf = .ok (.total T)) (hlen : T ≤ buf.length)
      (ht : tailOk c f (buf.take T) = .ok true) : Judged c f buf (.accept T)

/-- A candidate with its length: incomplete, or decided by its tail. -/
theorem judged_of_total {c : Config} {f : Family} {buf : List Byte} {T : Nat} {tail : Bool} {d : DiagCode}
    (hh : headerLength c f buf = .ok (.total T)) (hd : d = tailDiag c f)
    (ht : T ≤ buf.length → tailOk c f (buf.take T) = .ok tail) :
    Judged c f buf (if buf.length < T then .wait else if tail = true then .accept T else .reject d) := by
  subst hd
  split
  · rename_i hlen
    exact .incomplete hh hlen
  · rename_i hlen
    have hlen' : T ≤ buf.length := Nat.not_lt.mp hlen
    cases tail with
    | true => exact .whole hh hlen' (ht hlen')
    | false => exact .badTail hh hlen' (ht hlen')

theorem byteAt_eq_getD {w : List Byte} {i : Nat} (h : i < w.length) : byteAt w i = .ok (w.getD i 0) := by
  rw [byteAt_eq_ok h, List.getD_eq_getElem _ _ h]

theorem getD_take {w : List Byte} {i n : Nat} (h : i < n) : (w.take n).getD i 0 = w.getD i 0 := by
  rw [List.getD_eq_getElem?_getD, List.getD_eq_getElem?_getD, List.getElem?_take, if_pos h]

/-- The last 4 bytes of the first `n + 4`. -/
theorem memRead_take_tail {w : List Byte} {n : Nat} (h : n + 4 ≤ w.length) :
    memRead (w.take (n + 4)) ((w.take (n + 4)).length - 4) 4 = .ok ((w.drop n).take 4) := by
  have hlen : (w.take (n + 4)).length = n + 4 := by rw [List.length_take]; omega
  rw [hlen, memRead_eq_ok (by omega), Nat.add_sub_cancel, List.drop_take, Nat.add_sub_cancel_left, List.take_take,
    min_self]

theorem verdict_min (c : Config) (buf : List Byte) : Judged c .min buf (verdict c .min buf) := by
  have hj := judged_of_total (c := c) (f := .min) (buf := buf) (T := 5) (tail := decide (buf.getD 4 0 = 0x62))
    (d := .formatError) rfl (by cases h : c.cfgTerm <;> rfl) (fun hlen => by
      simp only [tailOk, byteAt_eq_getD (w := buf.take 5) (i := 4) (by rw [List.length_take]; omega),
        getD_take (by decide : 4 < 5), markerBytes, bind, Except.bind, List.cons.injEq, and_true]
      rfl)
  simpa only [verdict, decide_eq_true_eq] using hj

theorem verdict_std (c : Config) (buf : List Byte) : Judged c .std buf (verdict c .std buf) := by
  simp only [verdict]
  by_cases h6 : buf.length < 6
  · rw [if_pos h6]
    exact .needMore (if_pos h6)
  · have hL : (if c.stdBigEndian = true then 256 * (buf.getD 4 0).toNat + (buf.getD 5 0).toNat
        else (buf.getD 4 0).toNat + 256 * (buf.getD 5 0).toNat) = u16std c (buf.getD 4 0) (buf.getD 5 0) := rfl
    have hhead : headerLength c .std buf = if u16std c (buf.getD 4 0) (buf.getD 5 0) ≠ 7 + c.maxGates then .ok .bad
        else .ok (.total (10 + u16std c (buf.getD 4 0) (buf.getD 5 0))) := by
      simp only [headerLength, if_neg h6, byteAt_eq_getD (by omega : 4 < buf.length),
        byteAt_eq_getD (by omega : 5 < buf.length), bind, Except.bind]
    rw [if_neg h6, hL]
    by_cases hbad : u16std c (buf.getD 4 0) (buf.getD 5 0) ≠ 7 + c.maxGates
    · rw [if_pos hbad]
      exact .badLength (by rw [hhead, if_pos hbad])
    · have hT : 10 + u16std c (buf.getD 4 0) (buf.getD 5 0) = 13 + c.maxGates + 4 := by omega
      have hj := judged_of_total (c := c) (f := .std) (buf := buf) (T := 13 + c.maxGates + 4)
        (tail := decide ((buf.drop (13 + c.maxGates)).take 4 = [0xF8, 0xF7, 0xF6, 0xF5])) (d := .formatError)
        (by rw [hhead, if_neg hbad, hT]) (by cases h : c.cfgTerm <;> rfl) (fun hlen => by
          simp only [tailOk, memRead_take_tail hlen, bind, Except.bind]
          rfl)
      rw [if_neg hbad, show 17 + c.maxGates = 13 + c.maxGates + 4 by omega]
      simpa only [decide_eq_true_eq] using hj

/-- The header of a configuration candidate that holds its length field. -/
theorem headerLength_cfg {c : Config} {buf : List Byte} (h6 : ¬ buf.length < 6) :
    headerLength c .cfg buf = if u16le (buf.getD 4 0) (buf.getD 5 0) < 2 ∨
        c.cap < cfgTotal c (u16le (buf.getD 4 0) (buf.getD 5 0)) then .ok .bad
      else .ok (.total (cfgTotal c (u16le (buf.getD 4 0) (buf.getD 5 0)))) := by
  simp only [headerLength, if_neg h6, byteAt_eq_getD (by omega : 4 < buf.length),
    byteAt_eq_getD (by omega : 5 < buf.length), bind, Except.bind]

theorem verdict_cfg (c : Config) (buf : List Byte) : Judged c .cfg buf (verdict c .cfg buf) := by
  simp only [verdict]
  by_cases h6 : buf.length < 6
  · rw [if_pos h6]
    exact .needMore (if_pos h6)
  · have hhead := headerLength_cfg (c := c) h6
    have hL : (buf.getD 4 0).toNat + 256 * (buf.getD 5 0).toNat = u16le (buf.getD 4 0) (buf.getD 5 0) := rfl
    rw [if_neg h6, hL]
    generalize u16le (buf.getD 4 0) (buf.getD 5 0) = L at hhead
    cases hterm : c.cfgTerm with
    | marker =>
      simp only [cfgTotal, hterm] at hhead
      by_cases hbad : L < 2 ∨ c.cap < 10 + L
      · simp only [if_pos hbad, gt_iff_lt]
        exact .badLength (by rw [hhead, if_pos hbad])
      · have hj := judged_of_total (c := c) (f := .cfg) (buf := buf) (T := 6 + L + 4)
          (tail := decide ((buf.drop (6 + L)).take 4 = [0x04, 0x03, 0x02, 0x01])) (d := .formatError)
          (by rw [hhead, if_neg hbad, show 10 + L = 6 + L + 4 by omega]) (by simp only [tailDiag, hterm]) (fun hlen => by
            simp only [tailOk, hterm, memRead_take_tail hlen, bind, Except.bind]
            rfl)
        simp only [gt_iff_lt, if_neg hbad]
        rw [show 10 + L = 6 + L + 4 by omega]
        simpa only [decide_eq_true_eq] using hj
    | checksum =>
      simp only [cfgTotal, hterm] at hhead
      by_cases hbad : L < 2 ∨ c.cap < 7 + L
      · simp only [if_pos hbad, gt_iff_lt]
        exact .badLength (by rw [hhead, if_pos hbad])
      · have hj := judged_of_total (c := c) (f := .cfg) (buf := buf) (T := 7 + L)
          (tail := decide ((buf.getD (6 + L) 0).toNat = ((buf.take (6 + L)).map BitVec.toNat).sum % 256))
          (d := .checksumError) (by rw [hhead, if_neg hbad]) (by simp only [tailDiag, hterm]) (fun hlen => by
            have hlast : (buf.take (7 + L)).length - 1 = 6 + L := by rw [List.length_take]; omega
            have hbody : (buf.take (7 + L)).take (6 + L) = buf.take (6 + L) := by
              rw [List.take_take, min_eq_left (by omega)]
            simp only [tailOk, hterm, hlast, bind, Except.bind,
              byteAt_eq_getD (w := buf.take (7 + L)) (i := 6 + L) (by rw [List.length_take]; omega),
              memRead_eq_ok (m := buf.take (7 + L)) (off := 0) (n := 6 + L) (by rw [List.length_take]; omega),
              List.drop_zero, hbody, getD_take (by omega : 6 + L < 7 + L), ← checksumOf_toNat, BitVec.toNat_inj])
        simp only [if_neg hbad, gt_iff_lt]
        simpa only [decide_eq_true_eq] using hj

/-- The specification judges a candidate as the model's tests do. -/
theorem verdict_judged (c : Config) (f : Family) (buf : List Byte) : Judged c f buf (verdict c f buf) := by
  cases f with
  | min => exact verdict_min c buf
  | std => exact verdict_std c buf
  | cfg => exact verdict_cfg c buf

/-! ### Bytes that start no marker (R142, R144, R145) -/

theorem start_eq_startMarker (f : Family) : start f = startMarker f := by cases f <;> rfl

theorem start_isPrefix_iff {f : Family} {buf : List Byte} :
    start f <+: buf ↔ matchAt buf 0 (startMarker f) = true := by
  rw [start_eq_startMarker, matchAt_iff_exists_append]
  constructor
  · rintro ⟨post, h⟩
    exact ⟨[], post, by rw [List.nil_append, h], rfl⟩
  · rintro ⟨pre, post, h, hpre⟩
    rw [List.length_eq_zero_iff.mp hpre, List.nil_append] at h
    exact ⟨post, h.symm⟩

theorem matchAt_cons_succ (b : Byte) (bs m : List Byte) (i : Nat) : matchAt (b :: bs) (i + 1) m = matchAt bs i m := by
  simp only [matchAt, List.length_cons, List.drop_succ_cons, Nat.add_right_comm i 1, Nat.add_le_add_iff_right]

/-- A marker that does not stand at offset 0 is searched for behind the first byte. -/
theorem firstMatch_cons {b : Byte} {bs m : List Byte} (h0 : matchAt (b :: bs) 0 m = false) :
    firstMatch (b :: bs) m = (firstMatch bs m).map (· + 1) := by
  cases hf : firstMatch bs m with
  | none =>
    refine List.find?_range_eq_none.mpr fun i _ => ?_
    cases i with
    | zero => rw [h0]; rfl
    | succ i => rw [matchAt_cons_succ, firstMatch_none hf]; rfl
  | some i =>
    obtain ⟨hlen, hm, hmin⟩ := firstMatch_some hf
    refine List.find?_range_eq_some.mpr ⟨?_, ?_, fun j hj => ?_⟩
    · rw [matchAt_cons_succ]
      exact matchAt_iff.mpr ⟨hlen, hm⟩
    · simp only [List.length_cons, List.mem_range]
      omega
    · cases j with
      | zero => rw [h0]; rfl
      | succ j => rw [matchAt_cons_succ, hmin j (Nat.lt_of_succ_lt_succ hj)]; rfl

/-- The part of a marker that a buffer ends with lies behind its first byte, unless it is the whole buffer. -/
theorem keepLen_cons {b : Byte} {bs m : List Byte} (hm : ¬ (b :: bs) <+: m) :
    keepLen (b :: bs) m = keepLen bs m := by
  have hagree : ∀ r ∈ (List.range (min bs.length (m.length - 1) + 1)).reverse,
      decide ((b :: bs).drop ((b :: bs).length - r) = m.take r) = decide (bs.drop (bs.length - r) = m.take r) := by
    intro r hr
    simp only [List.mem_reverse, List.mem_range] at hr
    rw [show (b :: bs).length - r = bs.length - r + 1 by rw [List.length_cons]; omega, List.drop_succ_cons]
  have hwhole : (b :: bs) ≠ m.take (bs.length + 1) := fun h => hm (h ▸ List.take_prefix _ m)
  unfold keepLen
  congr 1
  by_cases hle : bs.length + 1 ≤ m.length - 1
  · rw [List.length_cons, min_eq_left hle, List.range_succ, List.reverse_append, List.reverse_singleton,
      List.singleton_append, List.find?_cons_of_neg (by simpa using hwhole), ← List.length_cons (a := b)]
    rw [min_eq_left (by omega)] at hagree ⊢
    exact List.find?_congr hagree
  · rw [show min (b :: bs).length (m.length - 1) = min bs.length (m.length - 1) by rw [List.length_cons]; omega]
    exact List.find?_congr hagree

/-- A byte that starts no marker is passed over. -/
theorem extractLoop_skip {f : Family} {s : State} {b : Byte} {bs : List Byte} (n : Nat) (hb : s.buf = b :: bs)
    (hstart : ¬ start f <+: b :: bs) (hpart : ¬ (b :: bs) <+: start f) :
    extractLoop f (n + 1) s = extractLoop f (n + 1) (s.removePrefix 1) := by
  have h0 : matchAt (b :: bs) 0 (startMarker f) = false := by
    rw [← Bool.not_eq_true, ← start_isPrefix_iff]; exact hstart
  rw [start_eq_startMarker] at hpart
  have hbuf : (s.removePrefix 1).buf = bs := by rw [State.removePrefix_buf, hb]; rfl
  have hremove : ∀ i, (s.removePrefix 1).removePrefix i = s.removePrefix (i + 1) := by
    intro i
    simp only [State.removePrefix_eq_scanned, State.scanned_scanned, Nat.add_comm 1, List.append_nil]
  simp only [extractLoop, hbuf, hb, firstMatch_cons h0, keepLen_cons hpart]
  cases firstMatch bs (startMarker f) with
  | none =>
    have hk := keepLen_le bs (startMarker f)
    simp only [Option.map_none, hremove, List.length_cons]
    rw [show bs.length + 1 - keepLen bs (startMarker f) = bs.length - keepLen bs (startMarker f) + 1 by omega]
  | some i => simp only [Option.map_some, hremove]

/-! ### One pass on a candidate (R146, R147, R148) -/

theorem waiting_of_part {c : Config} {f : Family} {buf : List Byte} (hstart : ¬ start f <+: buf)
    (hpart : buf <+: start f) : Waiting c f buf := by
  rw [start_eq_startMarker] at hstart hpart
  refine .partMarker buf.length ?_ (List.prefix_iff_eq_take.mp hpart)
  refine Nat.lt_of_le_of_ne hpart.length_le fun hlen => hstart ?_
  rw [hpart.eq_of_length hlen]

/-- One pass on a candidate at the front: it waits, or costs one byte and a diagnostic, or is returned. -/
theorem extractLoop_candidate {f : Family} {s : State} {v : Verdict} (n : Nat) (hstart : start f <+: s.buf)
    (hv : Judged s.cfg f s.buf v) :
    extractLoop f (n + 1) s = match (generalizing := false) v with
      | .wait => .ok (s, none)
      | .reject d => extractLoop f n (s.scanned 1 [.diag d])
      | .accept T => .ok (s.scanned T [], some (s.buf.take T)) := by
  have hmatch := start_isPrefix_iff.mp hstart
  have h0 : s.removePrefix 0 = s := by rw [State.removePrefix_eq_scanned, State.scanned_eq_self]
  have hread : ∀ T, T ≤ s.buf.length → memRead s.buf 0 T = .ok (s.buf.take T) := fun T hT => by
    rw [memRead_eq_ok (by omega), List.drop_zero]
  cases hv with
  | needMore hh => exact extractLoop_waiting n (.needMore hmatch hh)
  | incomplete hh hlen => exact extractLoop_waiting n (.incomplete _ hmatch hh hlen)
  | badLength hh =>
    simp only [extractLoop, firstMatch_of_match_zero hmatch, h0, hh, State.raise_formatError_eq, bind, Except.bind]
  | badTail hh hlen ht =>
    simp only [extractLoop, firstMatch_of_match_zero hmatch, h0, hh, if_neg (Nat.not_lt.mpr hlen), hread _ hlen, ht,
      State.raise_tailError_eq, bind, Except.bind, Bool.false_eq_true, if_false]
  | whole hh hlen ht =>
    simp only [extractLoop, firstMatch_of_match_zero hmatch, h0, hh, if_neg (Nat.not_lt.mpr hlen), hread _ hlen, ht,
      bind, Except.bind, if_true, State.removePrefix_eq_scanned]

theorem accept_le {c : Config} {f : Family} {buf : List Byte} {T : Nat} (h : Judged c f buf (.accept T)) :
    T ≤ buf.length := by
  cases h with
  | whole _ hlen => exact hlen

/-- EXTRACT's loop is the walk. -/
theorem extractLoop_eq_scan (f : Family) (buf : List Byte) : ∀ (n : Nat) (s : State), s.buf = buf → buf.length < n →
    extractLoop f n s = .ok (s.scanned (scanBytes s.cfg f buf).removed (scanBytes s.cfg f buf).events,
      (scanBytes s.cfg f buf).found) ∧ (scanBytes s.cfg f buf).removed ≤ buf.length := by
  induction buf with
  | nil =>
    intro n s hb hn
    obtain ⟨n, rfl⟩ : ∃ m, n = m + 1 := ⟨n - 1, by omega⟩
    rw [extractLoop_waiting n (hb ▸ waiting_nil _ _)]
    exact ⟨by rw [scanBytes, State.scanned_eq_self], le_rfl⟩
  | cons b bs ih =>
    intro n s hb hn
    simp only [List.length_cons] at hn ⊢
    obtain ⟨n, rfl⟩ : ∃ m, n = m + 1 := ⟨n - 1, by omega⟩
    rw [scanBytes]
    by_cases hstart : start f <+: b :: bs
    · rw [if_pos hstart]
      have hv := verdict_judged s.cfg f (b :: bs)
      generalize verdict s.cfg f (b :: bs) = v at hv
      have hv' : Judged s.cfg f s.buf v := hb ▸ hv
      rw [extractLoop_candidate n (hb ▸ hstart) hv']
      cases v with
      | wait => exact ⟨by simp only [State.scanned_eq_self], Nat.zero_le _⟩
      | reject d =>
        obtain ⟨he, hle⟩ := ih n (s.scanned 1 [.diag d]) (by rw [State.scanned_buf, hb]; rfl) (by omega)
        rw [State.scanned_cfg] at he hle
        refine ⟨?_, Nat.succ_le_succ hle⟩
        simp only [he, State.scanned_scanned, Scan.after, Nat.add_comm 1]
      | accept T => exact ⟨by simp only [hb], accept_le hv⟩
    · rw [if_neg hstart]
      by_cases hpart : (b :: bs) <+: start f
      · rw [if_pos hpart, extractLoop_waiting n (hb ▸ waiting_of_part hstart hpart)]
        exact ⟨by rw [State.scanned_eq_self], Nat.zero_le _⟩
      · rw [if_neg hpart, extractLoop_skip n hb hstart hpart]
        obtain ⟨he, hle⟩ := ih (n + 1) (s.removePrefix 1) (by rw [State.removePrefix_buf, hb]; rfl) (by omega)
        rw [State.removePrefix_cfg] at he hle
        refine ⟨?_, Nat.succ_le_succ hle⟩
        rw [he, State.removePrefix_eq_scanned, State.scanned_scanned]
        simp only [Scan.after, Nat.add_comm 1]

theorem extract_eq_scan (s : State) :
    extract s = .ok (s.scanned (scanBytes s.cfg s.family s.buf).removed (scanBytes s.cfg s.family s.buf).events,
      (scanBytes s.cfg s.family s.buf).found) ∧ (scanBytes s.cfg s.family s.buf).removed ≤ s.buf.length :=
  extractLoop_eq_scan s.family s.buf _ s rfl (Nat.lt_succ_self _)

/-- Settles O16, by induction over the bytes. -/
theorem extractIsOneLeftToRightScan : Obligations.ExtractIsOneLeftToRightScan := by
  intro s r hr
  obtain ⟨hx, hle⟩ := extract_eq_scan s.opStart
  simp only [State.opStart_cfg, State.opStart_family, State.opStart_buf, ← hr] at hx hle
  show execExtract s = _
  simp only [execExtract, hx]
  cases r.found with
  | some w => simp [State.scanned, State.emitAll, State.removePrefix, State.setResult, State.opStart, min_eq_left hle]
  | none => simp [State.scanned, State.emitAll, State.removePrefix, State.setResult, State.opStart, min_eq_left hle]

/-! ### A frame behind noise (R144, R155) -/

/-- The frame rows are the windows EXTRACT validates (30_encoding.md R71 to R75). -/
theorem validated_of_row {c : Config} (hc : c.Wf) {i : Instr} {f : Family} {frame : List Byte}
    (hwf : i.wellFormed c = true) (hrow : rowFamily i = some f) (henc : encode c i = some frame) :
    Validated c f frame := by
  cases i <;> cases hrow <;> cases henc
  case tlmMin st d => exact validated_tlmMinFrame st d
  case tlmStd ft st mov sta res e => exact validated_tlmStdFrame hc ft st mov sta res e (of_decide_eq_true hwf)
  case cfgFrame cw p =>
    simp only [Instr.wellFormed, Bool.and_eq_true, decide_eq_true_eq] at hwf
    exact validated_cfgFrameMarker hc hwf.1 cw p hwf.2
  case cfgFrameCk cw p =>
    simp only [Instr.wellFormed, Bool.and_eq_true, decide_eq_true_eq] at hwf
    exact validated_cfgFrameChecksum hc hwf.1 cw p hwf.2

theorem start_isPrefix_of_validated {c : Config} {f : Family} {w : List Byte} (h : Validated c f w) (rest : List Byte) :
    start f <+: w ++ rest := start_isPrefix_iff.mpr (matchAt_zero_of_validated h rest)

/-- A validated window at the front is accepted with its length. -/
theorem scanBytes_validated {c : Config} {f : Family} {w : List Byte} (h : Validated c f w) (rest : List Byte) :
    scanBytes c f (w ++ rest) = ⟨w.length, [], some w⟩ := by
  have hstart := start_isPrefix_of_validated h rest
  have hv := verdict_judged c f (w ++ rest)
  have hhead := headerLength_append (rest := rest) h
  have hfits : w.length ≤ (w ++ rest).length := by simp
  have htail : tailOk c f ((w ++ rest).take w.length) = .ok true := by rw [List.take_left]; exact h.tail
  have haccept : verdict c f (w ++ rest) = .accept w.length := by
    generalize verdict c f (w ++ rest) = v at hv
    cases hv with
    | needMore hh => rw [hhead] at hh; cases hh
    | badLength hh => rw [hhead] at hh; cases hh
    | incomplete hh hlen => rw [hhead] at hh; cases hh; omega
    | badTail hh hlen ht => rw [hhead] at hh; cases hh; rw [htail] at ht; cases ht
    | whole hh => rw [hhead] at hh; cases hh; rfl
  cases hb : w ++ rest with
  | nil => rw [hb] at hstart; cases f <;> simp [start] at hstart
  | cons b bs =>
    rw [scanBytes, ← hb, if_pos hstart, haccept]
    simp only [List.take_left]

/-- Bytes at none of which a marker begins are passed over without a diagnostic. -/
theorem scanBytes_noise {c : Config} {f : Family} {w rest : List Byte} (h : Validated c f w) (noise : List Byte)
    (hnoise : ∀ off < noise.length, ¬ start f <+: (noise ++ w ++ rest).drop off) :
    scanBytes c f (noise ++ w ++ rest) = ⟨noise.length + w.length, [], some w⟩ := by
  induction noise with
  | nil => rw [List.nil_append, scanBytes_validated h, List.length_nil, Nat.zero_add]
  | cons b noise ih =>
    have hfirst : ¬ start f <+: b :: (noise ++ w ++ rest) := hnoise 0 (Nat.succ_pos _)
    have hlong : ¬ (b :: (noise ++ w ++ rest)) <+: start f := by
      intro hpart
      have h1 := hpart.length_le
      have h2 := (start_isPrefix_of_validated h rest).length_le
      simp only [List.length_cons, List.length_append] at h1 h2
      omega
    rw [List.cons_append, List.cons_append, scanBytes, if_neg hfirst, if_neg hlong,
      ih fun off hoff => hnoise (off + 1) (Nat.succ_lt_succ hoff)]
    simp only [Scan.after, List.length_cons, Nat.add_right_comm, List.append_nil]

/-- Settles O17: the walk passes over the noise and accepts the frame. -/
theorem frameBehindNoiseIsFound : Obligations.FrameBehindNoiseIsFound := by
  intro s i noise frame rest hc hwf hrow henc hbuf hnoise
  have hscan := scanBytes_noise (rest := rest) (validated_of_row hc hwf hrow henc) noise (hbuf ▸ hnoise)
  rw [extractIsOneLeftToRightScan s _ rfl, hbuf, hscan, ← List.length_append, List.drop_left, List.length_append,
    Nat.add_assoc]

end Sys2Proof.Proofs
end

section
/-! DRAIN, RX and POLL run to quiescence, and DRAIN is EXTRACT, the effect of the frame and DRAIN again
(42_stream_synchronizer.md R149 to R152; 43_command_ack.md R179). -/

namespace Sys2Proof.Proofs

open Sys2Proof.Machine Sys2Proof.Spec

/-! ### What is removed from the buffer is counted (10_state.md R24) -/

/-- The buffer has lost bytes at its front, as many as `pos` has grown, and no result is given. -/
structure Consumed (s t : State) : Prop where
  pos_le : s.pos ≤ t.pos
  total : t.pos + t.buf.length = s.pos + s.buf.length
  buf : t.buf = s.buf.drop (t.pos - s.pos)
  result : t.result = s.result

theorem Consumed.of_same {s t : State} (hpos : t.pos = s.pos) (hbuf : t.buf = s.buf) (hresult : t.result = s.result) :
    Consumed s t :=
  ⟨hpos.ge, by rw [hpos, hbuf], by rw [hpos, hbuf, Nat.sub_self, List.drop_zero], hresult⟩

theorem Consumed.trans {s t u : State} (h : Consumed s t) (h' : Consumed t u) : Consumed s u where
  pos_le := h.pos_le.trans h'.pos_le
  total := h'.total.trans h.total
  buf := by
    rw [h'.buf, h.buf, List.drop_drop, ← Nat.sub_add_sub_cancel h'.pos_le h.pos_le, Nat.add_comm]
  result := h'.result.trans h.result

theorem consumed_scanned (s : State) (n : Nat) (evs : List Event) : Consumed s (s.scanned n evs) where
  pos_le := Nat.le_add_right _ _
  total := by simp only [State.scanned_pos, State.scanned_buf, List.length_drop]; omega
  buf := by
    rw [State.scanned_pos, State.scanned_buf, Nat.add_sub_cancel_left]
    by_cases hn : n ≤ s.buf.length
    · rw [min_eq_left hn]
    · rw [min_eq_right (by omega), List.drop_of_length_le (by omega), List.drop_length]
  result := rfl

theorem consumed_handleReply (cw : Word16) (p : List Byte) (s : State) : Consumed s (handleReply cw p s) := by
  rcases handleReply_cases cw p s with ⟨-, -, -, he⟩ | ⟨-, -, -, he⟩ | ⟨-, -, he⟩ | ⟨-, he⟩ <;>
    (rw [he]; exact .of_same rfl rfl rfl)

theorem consumed_drainStep {s t : State} (h : DrainStep s t) : Consumed s t := by
  cases h with
  | scan => exact consumed_scanned s _ _
  | tlmMin => exact .of_same rfl rfl rfl
  | tlmStd => exact .of_same rfl rfl rfl
  | reply cw p => exact consumed_handleReply cw p s

theorem consumed_drained {s t : State} (h : Drained s t) : Consumed s t :=
  h.closure (P := Consumed s) (fun _ _ hstep hs => hs.trans (consumed_drainStep hstep)) (.of_same rfl rfl rfl)

/-- FEED appends its byte; an overflow then removes bytes at the front (42_stream_synchronizer.md R141). -/
theorem consumed_feed (b : Byte) (s : State) : Consumed (s.appendByte b) (feed b s) := by
  rcases feed_cases b s with ⟨-, he⟩ | ⟨-, he⟩
  · rw [he]; exact .of_same rfl rfl rfl
  · rw [he, State.removePrefix_eq_scanned]
    exact (consumed_scanned _ _ []).trans (.of_same rfl rfl rfl)

/-! ### One pass of DRAIN (42_stream_synchronizer.md R149) -/

theorem drain_of_noFrame {s t : State} (h : extract s = .ok (t, none)) : drain s = .ok t := by
  simp only [drain, drainLoop, h, bind, Except.bind]

/-- DRAIN goes on from the state that the effect of the extracted frame leaves. -/
theorem drain_of_frame {s t u : State} {w : List Byte} (h : extract s = .ok (t, some w))
    (hd : dispatchFrame s.family w t = .ok u) : drain s = drain u := by
  obtain ⟨n, evs, r, hx, -, -, hr⟩ := extract_spec s
  rw [h] at hx
  cases hx
  obtain ⟨hv, h5, hwn, hw⟩ := hr
  obtain ⟨u', hu', hbuf, -⟩ := dispatchFrame_isOk (s := s.scanned n evs) hv
  rw [hd] at hu'
  cases hu'
  have hlt : u.buf.length < s.buf.length := by
    have hpos : 0 < (s.buf.drop (n - w.length)).length := by
      have hlen := congrArg List.length hw
      rw [List.length_take] at hlen
      omega
    rw [hbuf, State.scanned_buf, List.length_drop]
    rw [List.length_drop] at hpos
    omega
  simp only [drain, drainLoop, h, hd, bind, Except.bind]
  exact drainLoop_bound _ _ u hlt (Nat.lt_succ_self _)

/-! ### The frame rows are the windows EXTRACT returns, and dispatch has their effect -/

theorem row_of_validated {c : Config} {f : Family} {w : List Byte} (h : Validated c f w) :
    ∃ i, rowFamily i = some f ∧ i.wellFormed c = true ∧ encode c i = some w := by
  cases f with
  | min =>
    obtain ⟨st, d, rfl⟩ := validated_min_bytes h
    exact ⟨.tlmMin st d, rfl, rfl, rfl⟩
  | std =>
    obtain ⟨ft, st, mov, sta, res, e, he, rfl⟩ := validated_std_bytes h
    exact ⟨.tlmStd ft st mov sta res e, rfl, decide_eq_true he, rfl⟩
  | cfg =>
    obtain ⟨cw, p, ⟨hterm, hp, rfl⟩ | ⟨hterm, hp, rfl⟩⟩ := validated_cfg_bytes h
    · exact ⟨.cfgFrame cw p, rfl, by simp [Instr.wellFormed, hterm, hp], rfl⟩
    · exact ⟨.cfgFrameCk cw p, rfl, by simp [Instr.wellFormed, hterm, hp], rfl⟩

theorem decodeMinWindow_tlmMinFrame (c : Config) (st : Byte) (d : Word16) :
    decodeMinWindow c (tlmMinFrame st d) =
      .ok (some { state := st, presence := presenceBit c st, distanceCm := d }) := by
  show decodeMinWindow c [0x6E, st, lo8 d.toNat, hi8 d.toNat, 0x62] = _
  rw [decodeMinWindow_eq, if_neg (by decide), word16_bytesLe]

theorem decodeStdWindow_tlmStdFrame {c : Config} {ft st : Byte} {mov sta : Word16} {res : Byte} {e : List Byte}
    (he : e.length = c.maxGates) (h : Validated c .std (tlmStdFrame c ft st mov sta res e)) :
    decodeStdWindow c (tlmStdFrame c ft st mov sta res e) =
      .ok (some { frameType := ft, state := st, presence := presenceBit c st, movingCm := mov, stationaryCm := sta,
                  reserved := res, energy := e }) := by
  obtain ⟨l0, l1, hl⟩ : ∃ a b, bytesStd c (7 + e.length) = [a, b] := by
    unfold bytesStd; cases c.stdBigEndian <;> exact ⟨_, _, rfl⟩
  obtain ⟨m0, m1, hm, hmov⟩ := u16std_bytesStd c mov.toNat mov.isLt
  obtain ⟨n0, n1, hn, hsta⟩ := u16std_bytesStd c sta.toNat sta.isLt
  have hframe : tlmStdFrame c ft st mov sta res e =
      [0xF4, 0xF3, 0xF2, 0xF1] ++ [l0, l1, ft, st, m0, m1, n0, n1, res] ++ e ++ [0xF8, 0xF7, 0xF6, 0xF5] := by
    rw [tlmStdFrame, hl, hm, hn]; rfl
  obtain ⟨r, hr⟩ := decodeStdWindow_validated h
  rw [hframe, decodeStdWindow_eq (c := c) l0 l1 ft st m0 m1 n0 n1 res rfl rfl he] at hr ⊢
  split at hr
  · cases hr
  · rename_i hgood
    rw [if_neg hgood, hmov, hsta, word16_toNat, word16_toNat]

/-- The payload of a validated configuration window fits the length field. -/
theorem payload_le_of_validated {c : Config} {w : List Byte} {n : Nat} (h : Validated c .cfg w)
    (hw : w.length = cfgTotal c (2 + n)) : n ≤ 65533 := by
  rcases headerLength_total h.header with ⟨hf, -⟩ | ⟨hf, -⟩ | ⟨-, -, -, a, b, -, -, -, hT⟩
  · cases hf
  · cases hf
  · have ha := a.isLt
    have hb := b.isLt
    have hL : u16le a b < 65536 := by unfold u16le; omega
    have htotal : cfgTotal c (2 + n) = cfgTotal c (u16le a b) := hw.symm.trans hT
    unfold cfgTotal at htotal
    cases hterm : c.cfgTerm <;> simp only [hterm] at htotal <;> omega

theorem cfgFields_of_row {c : Config} {w : List Byte} {cw : Word16} {p : List Byte} (h : Validated c .cfg w)
    (hw : c.cfgTerm = .marker ∧ w = cfgFrameMarker cw p ∨ c.cfgTerm = .checksum ∧ w = cfgFrameChecksum cw p) :
    cfgFields w = .ok (cw, p) := by
  rcases hw with ⟨hterm, rfl⟩ | ⟨hterm, rfl⟩
  · refine cfgFields_cfgBody (payload_le_of_validated h ?_) _
    simp only [cfgTotal, hterm, cfgFrameMarker, List.length_append, cfgBody_length, markerBytes, List.length_cons,
      List.length_nil]
    omega
  · refine cfgFields_cfgBody (payload_le_of_validated h ?_) _
    simp only [cfgTotal, hterm, cfgFrameChecksum, List.length_append, cfgBody_length, List.length_cons, List.length_nil]
    omega

theorem handleCfg_of_fields {w : List Byte} {cw : Word16} {p : List Byte} (h : cfgFields w = .ok (cw, p)) (s : State) :
    handleCfg w s = .ok (handleReply cw p s) := by
  simp only [handleCfg, h, bind, Except.bind]

/-- The dispatch of the bytes of a frame row has the row's effect (42_stream_synchronizer.md R149). -/
theorem dispatchFrame_of_row {s : State} {i : Instr} {f : Family} {w : List Byte} (hv : Validated s.cfg f w)
    (hwf : i.wellFormed s.cfg = true) (hrow : rowFamily i = some f) (henc : encode s.cfg i = some w) :
    dispatchFrame f w s.opStart = .ok (frameEffect i s) := by
  cases i <;> cases hrow <;> cases henc
  case tlmMin st d =>
    simp only [dispatchFrame, State.opStart_cfg, decodeMinWindow_tlmMinFrame, bind, Except.bind]
    rfl
  case tlmStd ft st mov sta res e =>
    simp only [dispatchFrame, State.opStart_cfg, decodeStdWindow_tlmStdFrame (of_decide_eq_true hwf) hv, bind,
      Except.bind]
    rfl
  case cfgFrame cw p =>
    simp only [Instr.wellFormed, Bool.and_eq_true, decide_eq_true_eq] at hwf
    simp only [dispatchFrame, handleCfg_of_fields (cfgFields_of_row hv (.inl ⟨hwf.1, rfl⟩)), handleReply_opStart,
      frameEffect]
  case cfgFrameCk cw p =>
    simp only [Instr.wellFormed, Bool.and_eq_true, decide_eq_true_eq] at hwf
    simp only [dispatchFrame, handleCfg_of_fields (cfgFields_of_row hv (.inr ⟨hwf.1, rfl⟩)), handleReply_opStart,
      frameEffect]

/-! ### Quiescent states -/

theorem waiting_of_quiescent {s : State} (h : Quiescent s) : Waiting s.cfg s.family s.buf := by
  obtain ⟨t, hx, hbuf⟩ := h
  obtain ⟨n, evs, r, hx', -, -, hr⟩ := extract_spec s
  rw [hx] at hx'
  cases hx'
  rw [State.scanned_buf] at hbuf
  exact hbuf ▸ hr

/-- On a buffer on which EXTRACT waits, DRAIN changes nothing but the outputs. -/
theorem exec_drain_of_waiting {t : State} (h : Waiting t.cfg t.family t.buf) : exec .drain t = .next t.opStart :=
  exec_drain_iff.mpr (drain_waiting h)

theorem opStart_of_result_none {t : State} (h : t.result = .none) : t.opStart = { t with events := [] } := by
  rw [State.opStart, ← h]

theorem sameCommand_opStart (s : State) : SameCommand s s.opStart := ⟨rfl, rfl, rfl, rfl, rfl, rfl, rfl, rfl, rfl⟩

theorem onlyReceived_of_received {s t : State} (h : Received s.opStart t) : OnlyReceived s t :=
  onlyReceived_iff.mpr ((sameCommand_opStart s).trans (sameCommand_received h))

/-! ### DRAIN -/

theorem exec_extract_of_extract {s t : State} {r : Option (List Byte)} (h : extract s.opStart = .ok (t, r)) :
    exec .extract s = .next (t.setResult (r.elim .noFrame (.frame s.family))) := by
  show execExtract s = _
  rw [execExtract, h]
  cases r <;> rfl

/-- DRAIN behind a frame that EXTRACT returned is DRAIN from the state after the frame's effect, behind the events so
far. -/
theorem drain_behind_frame {s u : State} {i : Instr} {w : List Byte} (hx : extract s.opStart = .ok (u, some w))
    (hu : u.result = .none) (hcfg : u.cfg = s.cfg) (r : OpResult) (hv : Validated s.cfg s.family w)
    (hrow : rowFamily i = some s.family)
    (hwf : i.wellFormed s.cfg = true) (henc : encode s.cfg i = some w) :
    drain s.opStart = prependEvents (u.events ++ (frameEffect i (u.setResult r)).events) <$>
      drain (frameEffect i (u.setResult r)).opStart := by
  rw [← hcfg] at hv hwf henc
  have heffect : dispatchFrame s.family w u.opStart = .ok (frameEffect i (u.setResult r)) :=
    dispatchFrame_of_row (s := u.setResult r) hv hwf hrow henc
  have hresult : (frameEffect i (u.setResult r)).result = .none := by
    rcases dispatchFrame_spec (s := u.opStart) hv with ⟨-, r, -, hd⟩ | ⟨-, r, -, hd⟩ | ⟨-, cw, p, -, -, hd⟩
    · rw [heffect] at hd; rw [Except.ok.inj hd]; rfl
    · rw [heffect] at hd; rw [Except.ok.inj hd]; rfl
    · rw [heffect] at hd; rw [Except.ok.inj hd]; exact (consumed_handleReply cw p _).result
  have hdispatch : dispatchFrame s.family w u = .ok (prependEvents u.events (frameEffect i (u.setResult r))) :=
    calc dispatchFrame s.family w u
        = dispatchFrame s.family w (prependEvents u.events u.opStart) := by rw [prependEvents_opStart hu]
      _ = prependEvents u.events <$> dispatchFrame s.family w u.opStart := dispatchFrame_prependEvents _ _ _ _
      _ = .ok (prependEvents u.events (frameEffect i (u.setResult r))) := by rw [heffect]; rfl
  generalize frameEffect i (u.setResult r) = v at hdispatch hresult
  have hv : prependEvents u.events v = prependEvents (u.events ++ v.events) v.opStart := by
    simp only [prependEvents, State.opStart, List.append_nil, ← hresult]
  calc drain s.opStart = drain (prependEvents u.events v) := drain_of_frame hx hdispatch
    _ = drain (prependEvents (u.events ++ v.events) v.opStart) := by rw [hv]
    _ = prependEvents (u.events ++ v.events) <$> drain v.opStart := drain_prependEvents _ _

/-- Settles O18. The registers and the bytes are those of any steps of DRAIN; the loop's first pass is EXTRACT. -/
theorem drainRunsToQuiescence : Obligations.DrainRunsToQuiescence := by
  intro s
  obtain ⟨t, ht⟩ := drain_isOk s.opStart
  obtain ⟨hsteps, hwait⟩ := drained_of_drain ht
  have hcons := consumed_drained hsteps
  obtain ⟨n, evs, r, hx, -, -, hr⟩ := extract_spec s.opStart
  refine ⟨t, _, exec_drain_iff.mpr ht, quiescent_of_waiting hwait, onlyReceived_of_received hsteps.received,
    hcons.result, hcons.total, hcons.buf, ?_, exec_extract_of_extract hx, ?_⟩
  · rw [exec_drain_of_waiting hwait, opStart_of_result_none hcons.result]
  · cases r with
    | none =>
      have hdrain := drain_of_noFrame hx
      rw [ht] at hdrain
      cases hdrain
      exact .inl ⟨rfl, rfl⟩
    | some w =>
      obtain ⟨hv, -⟩ := hr
      obtain ⟨i, hrow, hwf, henc⟩ := row_of_validated hv
      obtain ⟨v, hdrain⟩ := drain_isOk
        (frameEffect i ((s.opStart.scanned n evs).setResult (.frame s.family w))).opStart
      have hbehind := drain_behind_frame hx rfl rfl (.frame s.family w) hv hrow hwf henc
      rw [ht, hdrain] at hbehind
      exact .inr ⟨i, w, v, rfl, hrow, hwf, henc, exec_drain_iff.mpr hdrain, Except.ok.inj hbehind⟩

/-! ### RX -/

/-- Settles O19: FEED puts the byte behind the others, and DRAIN does the rest. -/
theorem rxRunsToQuiescence : Obligations.RxRunsToQuiescence := by
  intro b s
  obtain ⟨t, ht⟩ := receive_isOk b s.opStart
  have hdrain : drain (feed b s.opStart) = .ok t := ht
  obtain ⟨hsteps, hwait⟩ := drained_of_drain hdrain
  have hcons := (consumed_feed b s.opStart).trans (consumed_drained hsteps)
  refine ⟨t, exec_rx_iff.mpr hdrain, quiescent_of_waiting hwait, onlyReceived_of_received (received_of_receive ht),
    hcons.result, ?_, hcons.buf, fun hwf => ?_⟩
  · simpa [Nat.add_assoc] using hcons.total
  · exact room_of_drain (by rw [(sameCommand_feed b s.opStart).cfg]; exact hwf) hdrain

/-! ### POLL -/

theorem pollReply_eq (s : State) :
    pollReply s = if s.rpValid = true then some ⟨s.rpCw, s.rpPayload.take s.rpLen⟩ else none := by
  unfold pollReply pollStatus State.rpValid
  cases s.hs <;> cases s.failReason <;> rfl

theorem exec_poll_of_waiting {t : State} (h : Waiting t.cfg t.family t.buf) :
    exec .poll t = .next (t.opStart.setResult (.poll (pollStatus t) t.pCw (pollReply t))) := by
  show toOut (poll t.opStart) = _
  have hdrain : drain t.opStart = .ok t.opStart := drain_waiting h
  simp only [poll, hdrain, bind, Except.bind]
  rfl

/-- Settles O31: POLL is DRAIN with a result that reads the registers alone. -/
theorem pollReportsTheHandler : Obligations.PollReportsTheHandler := by
  intro s
  obtain ⟨u, hu, hp⟩ := exec_poll_eq s
  obtain ⟨hsteps, hwait⟩ := drained_of_drain hu
  have hsame : SameCommand s u := (sameCommand_opStart s).trans (sameCommand_received hsteps.received)
  have hresult : u.result = .none := (consumed_drained hsteps).result
  refine ⟨_, pollStatus u, pollReply u, hp, by rw [← hsame.pCw]; rfl, ?_, quiescent_of_waiting hwait,
    onlyReceived_iff.mpr (hsame.trans ⟨rfl, rfl, rfl, rfl, rfl, rfl, rfl, rfl, rfl⟩), ?_, ?_, ?_, ?_, ?_, ?_,
    pollReply_eq u, exec_poll_of_waiting hwait, fun hs => ?_⟩
  · rw [exec_drain_iff, hu]
    exact congrArg _ (by rw [← hresult]; rfl)
  · exact fun h => by rw [pollStatus, show u.hs = _ from h]
  · exact fun h => pollStatus_pending.mpr h
  · exact fun h => pollStatus_acked.mpr h
  · exact fun h hreason => by rw [pollStatus, show u.hs = _ from h, show u.failReason = _ from hreason]
  · exact fun h hreason => by rw [pollStatus, show u.hs = _ from h, show u.failReason = _ from hreason]
  · exact fun h hreason => by rw [pollStatus, show u.hs = _ from h, show u.failReason = _ from hreason]
  · have hdrain : drain s.opStart = .ok s.opStart := drain_waiting (waiting_of_quiescent (s := s) hs)
    rw [hdrain] at hu
    cases hu
    rfl

end Sys2Proof.Proofs
end

section
/-! A frame of the active family that reaches an empty buffer byte by byte: part of it waits, and the last byte has its
effect, once (42_stream_synchronizer.md R147 (c), R149, R150, R154). -/

namespace Sys2Proof.Proofs

open Sys2Proof.Machine Sys2Proof.Spec

/-! ### Part of a frame waits -/

/-- The header test says of part of a frame that more bytes are needed, or how long the frame is. -/
theorem headerLength_part {c : Config} {f : Family} {w : List Byte} {k : Nat} (h : Validated c f w)
    (hk : k < w.length) : headerLength c f (w.take k) = .ok .needMore ∨ headerLength c f (w.take k) = .ok (.total w.length) := by
  have hlen : (w.take k).length = k := by rw [List.length_take]; omega
  have hh := h.header
  cases f
  case min => exact .inr hh
  all_goals
    by_cases h6 : k < 6
    · exact .inl (if_pos (by rw [hlen]; exact h6))
    · refine .inr ?_
      rw [← hh]
      simp only [headerLength, hlen, if_neg h6, if_neg (by omega : ¬ w.length < 6), byteAt, List.getElem?_take,
        if_pos (by omega : 4 < k), if_pos (by omega : 5 < k)]

theorem waiting_of_part_of_frame {c : Config} {f : Family} {w : List Byte} {k : Nat} (h : Validated c f w)
    (hk : k < w.length) : Waiting c f (w.take k) := by
  have hlen : (w.take k).length = k := by rw [List.length_take]; omega
  by_cases hmarker : k < (startMarker f).length
  · refine .partMarker k hmarker ?_
    rw [← h.start, List.take_take, min_eq_left (by omega)]
  · have hmatch : matchAt (w.take k) 0 (startMarker f) = true := by
      refine matchAt_iff.mpr ⟨by omega, ?_⟩
      rw [List.drop_zero, List.take_take, min_eq_left (by omega), h.start]
    rcases headerLength_part h hk with hh | hh
    · exact .needMore hmatch hh
    · exact .incomplete _ hmatch hh (by omega)

/-- A byte behind which EXTRACT waits is appended and nothing else happens. -/
theorem receive_of_waiting {s : State} {b : Byte} (hroom : s.buf.length < s.cfg.cap)
    (h : Waiting s.cfg s.family (s.buf ++ [b])) : receive b s = .ok (s.appendByte b) := by
  rw [receive, feed_of_room hroom]
  exact drain_waiting (s := s.appendByte b) h

/-- Bytes behind each of which EXTRACT waits are appended and nothing else happens. -/
theorem receiveAll_of_waiting (bs : List Byte) : ∀ s : State, s.cfg.Wf →
    (∀ n ≤ bs.length, Waiting s.cfg s.family (s.buf ++ bs.take n)) →
    receiveAll bs s = .ok { s with buf := s.buf ++ bs } := by
  induction bs with
  | nil => intro s hc h; rw [List.append_nil]; rfl
  | cons b bs ih =>
    intro s hc h
    have hroom : s.buf.length < s.cfg.cap := waiting_room hc (by simpa using h 0 (Nat.zero_le _))
    refine receiveAll_cons.mpr ⟨s.appendByte b, receive_of_waiting hroom (by simpa using h 1 (by simp)), ?_⟩
    rw [ih (s.appendByte b) hc fun n hn => by simpa using h (n + 1) (by simpa using hn)]
    simp [State.appendByte]

theorem waiting_of_take_of_part {c : Config} {f : Family} {w : List Byte} {k n : Nat} (h : Validated c f w)
    (hk : k < w.length) : Waiting c f ((w.take k).take n) := by
  rw [List.take_take]
  exact waiting_of_part_of_frame h (by omega)

/-- RX of one byte at a time, each as an operation of its own, is RX of all of them. -/
theorem runOps_rxn (bs : List Byte) : ∀ (b : Byte) (s : State), s.cfg.Wf →
    (∀ n ≤ (b :: bs).length, Waiting s.cfg s.family (s.buf ++ (b :: bs).take n)) →
    runOps (rxn (b :: bs)) s = some { s with buf := s.buf ++ b :: bs, events := [], result := .none } := by
  induction bs with
  | nil =>
    intro b s hc h
    have hroom : s.buf.length < s.cfg.cap := waiting_room hc (by simpa using h 0 (Nat.zero_le _))
    have hrx := receive_of_waiting (s := s.opStart) (b := b) hroom (by simpa using h 1 (by simp))
    have hx : exec (.rx b) s = .next (s.opStart.appendByte b) := toOut_next.mpr hrx
    simp only [rxn, List.map_cons, List.map_nil, runOps, hx]
    rfl
  | cons b' bs ih =>
    intro b s hc h
    have hroom : s.buf.length < s.cfg.cap := waiting_room hc (by simpa using h 0 (Nat.zero_le _))
    have hrx := receive_of_waiting (s := s.opStart) (b := b) hroom (by simpa using h 1 (by simp))
    have hx : exec (.rx b) s = .next (s.opStart.appendByte b) := toOut_next.mpr hrx
    rw [rxn, List.map_cons, runOps, hx]
    refine (ih b' (s.opStart.appendByte b) hc fun n hn => by simpa using h (n + 1) (by simpa using hn)).trans ?_
    simp [State.appendByte, State.opStart]

/-- Settles O24: every beginning of the part that has arrived waits. -/
theorem partOfAFrameWaits : Obligations.PartOfAFrameWaits := by
  intro s i frame k hc hwf hrow henc hbuf hk hlt
  have hv := validated_of_row hc hwf hrow henc
  cases hpart : frame.take k with
  | nil => rw [List.take_eq_nil_iff] at hpart; rcases hpart with rfl | rfl <;> simp at hk hlt
  | cons b bs =>
    refine (runOps_rxn bs b s hc fun n _ => ?_).trans (by rw [hbuf, List.nil_append])
    rw [hbuf, List.nil_append, ← hpart]
    exact waiting_of_take_of_part hv hlt

/-! ### A whole frame -/

theorem receiveAll_append (as bs : List Byte) : ∀ {s t : State}, receiveAll as s = .ok t →
    receiveAll (as ++ bs) s = receiveAll bs t := by
  induction as with
  | nil => intro s t h; cases h; rfl
  | cons a as ih =>
    intro s t h
    obtain ⟨u, hu, h⟩ := receiveAll_cons.mp h
    rw [List.cons_append, receiveAll, hu]
    exact ih h

theorem receiveAll_singleton (b : Byte) (s : State) : receiveAll [b] s = receive b s := by
  rw [receiveAll]
  cases receive b s <;> rfl

/-- DRAIN of a buffer that holds one frame is the dispatch of that frame. -/
theorem drain_of_validated {s : State} {w : List Byte} (h : Validated s.cfg s.family w) (hb : s.buf = w) :
    drain s = dispatchFrame s.family w (s.removePrefix w.length) := by
  obtain ⟨t, ht, hbuf, -⟩ := dispatchFrame_isOk (s := s.removePrefix w.length) h
  rw [drain_of_frame (extract_of_validated (rest := []) h (by rw [hb, List.append_nil])) ht, ht]
  refine drain_waiting ?_
  rw [hbuf, State.removePrefix_buf, hb, List.drop_length]
  exact waiting_nil _ _

/-- A frame of the active family that reaches an empty buffer is dispatched once, and the buffer is empty again. -/
theorem receiveAll_frame {s : State} {w : List Byte} (hc : s.cfg.Wf) (h : Validated s.cfg s.family w)
    (hb : s.buf = []) : receiveAll w s = dispatchFrame s.family w { s with pos := s.pos + w.length } := by
  have hpos : 0 < w.length := by have := (headerLength_total_ge h.header).1; omega
  have hsplit : w.take (w.length - 1) ++ [w[w.length - 1]] = w := by
    rw [List.take_append_getElem]; exact List.take_of_length_le (by omega)
  have hlt : w.length - 1 < w.length := by omega
  have hpart : receiveAll (w.take (w.length - 1)) s = .ok { s with buf := w.take (w.length - 1) } := by
    rw [receiveAll_of_waiting _ s hc fun n _ => by rw [hb]; exact waiting_of_take_of_part h hlt, hb, List.nil_append]
  have hroom := waiting_room hc (waiting_of_part_of_frame h hlt)
  calc receiveAll w s = receiveAll (w.take (w.length - 1) ++ [w[w.length - 1]]) s := by rw [hsplit]
    _ = receiveAll [w[w.length - 1]] { s with buf := w.take (w.length - 1) } := receiveAll_append _ _ hpart
    _ = drain { s with buf := w } := by
      rw [receiveAll_singleton, receive, feed_of_room hroom, State.appendByte, hsplit]
    _ = dispatchFrame s.family w (State.removePrefix w.length { s with buf := w }) :=
      drain_of_validated (s := { s with buf := w }) h rfl
    _ = dispatchFrame s.family w { s with pos := s.pos + w.length } := by
      simp only [State.removePrefix, List.drop_length, min_self, ← hb]

theorem exec_row_eq {s : State} {i : Instr} {f : Family} {w : List Byte} (hrow : rowFamily i = some f)
    (henc : encode s.cfg i = some w) : exec i s = toOut (receiveAll w s.opStart) := by
  cases i <;> cases hrow <;> cases henc <;> rfl

/-- The arrival of a frame row of the active family at an empty buffer is the row's effect. -/
theorem exec_row {s : State} {i : Instr} {w : List Byte} (hc : s.cfg.Wf) (hb : s.buf = [])
    (hwf : i.wellFormed s.cfg = true) (hrow : rowFamily i = some s.family) (henc : encode s.cfg i = some w) :
    exec i s = .next (frameEffect i { s with pos := s.pos + w.length }) := by
  have hv := validated_of_row hc hwf hrow henc
  have hdispatch := dispatchFrame_of_row (s := { s with pos := s.pos + w.length }) hv hwf hrow henc
  rw [exec_row_eq hrow henc, receiveAll_frame (s := s.opStart) hc hv hb]
  exact toOut_next.mpr hdispatch

/-- Settles O21. -/
theorem minimalFrameIsDelivered : Obligations.MinimalFrameIsDelivered := by
  intro s state d hc hb hsess htfam
  exact exec_row (i := .tlmMin state d) hc hb rfl (by rw [family_of_streaming_min hsess htfam]; rfl) rfl

/-- Settles O22. -/
theorem standardFrameIsDelivered : Obligations.StandardFrameIsDelivered := by
  intro s ft st mov sta res energy hc hb hsess htfam he
  have hlen := validated_length_std (validated_tlmStdFrame hc ft st mov sta res energy he)
  rw [exec_row (i := .tlmStd ft st mov sta res energy) hc hb (decide_eq_true he)
    (by rw [family_of_streaming_std hsess htfam]; rfl) rfl, ← hlen]
  rfl

/-- Settles O23: the frame rows of the two terminations have one effect. -/
theorem configurationFrameIsHandled : Obligations.ConfigurationFrameIsHandled := by
  intro s cw payload hc hb hsess
  have hfam := family_of_not_streaming hsess
  refine ⟨fun hterm hfit => ?_, fun hterm hfit => ?_⟩
  · have hlen : (cfgFrameMarker cw payload).length = 12 + payload.length := by
      simp only [cfgFrameMarker, List.length_append, cfgBody_length, markerBytes, List.length_cons, List.length_nil]
      omega
    rw [exec_row (i := .cfgFrame cw payload) hc hb (by simp [Instr.wellFormed, hterm, hfit]) (by rw [hfam]; rfl) rfl,
      hlen]
    rfl
  · have hlen : (cfgFrameChecksum cw payload).length = 9 + payload.length := by
      simp only [cfgFrameChecksum, List.length_append, cfgBody_length, List.length_cons, List.length_nil]
      omega
    rw [exec_row (i := .cfgFrameCk cw payload) hc hb (by simp [Instr.wellFormed, hterm, hfit]) (by rw [hfam]; rfl) rfl,
      hlen]
    rfl

/-! ### A late reply (70_reset_and_hazards.md R283) -/

theorem replyEffect_accepted {s : State} {cw : Word16} {p : List Byte} (hs : s.hs = .sent) (hcw : cw = s.pExpect)
    (hacc : s.pChk = false ∨ statusAccepted s.cfg p) :
    (replyEffect cw p s).hs = .acked ∧ (replyEffect cw p s).events = [.ackDone cw p] := by
  rw [replyEffect, if_pos ⟨hs, hcw⟩, if_pos hacc]
  exact ⟨rfl, rfl⟩

theorem replyEffect_rejected {s : State} {cw : Word16} {p : List Byte} (hs : s.hs = .sent) (hcw : cw = s.pExpect)
    (hrej : ¬ (s.pChk = false ∨ statusAccepted s.cfg p)) :
    (replyEffect cw p s).hs = .failed ∧ (replyEffect cw p s).failReason = .rejected ∧
      (replyEffect cw p s).events = [.cmdRejected cw p] := by
  rw [replyEffect, if_pos ⟨hs, hcw⟩, if_neg hrej]
  exact ⟨rfl, rfl, rfl⟩

/-- An ISSUE that answers OK is an accepted one. -/
theorem issued_of_exec_issue {s t : State} {cls : BitVec 2} {cw ex : Word16} {chk : Bool} {p : List Byte}
    (h : exec (.issue cls cw ex chk p) s = .next t) (hok : t.result = .ok) :
    ∃ k frame, classOf cls = some k ∧ p.length ≤ s.cfg.txPayloadMax ∧ encodeFrame s.cfg cw p = some frame ∧
      t = issued k cw ex chk frame s.opStart := by
  rw [exec_issue, Host.Outcome.next.injEq] at h
  rcases issue_cases cls cw ex chk p s.opStart with ⟨he, -⟩ | ⟨he, -⟩ | ⟨-, k, frame, hk, hp, henc, he⟩
  · rw [← h, he] at hok; cases hok
  · rw [← h, he] at hok; cases hok
  · exact ⟨k, frame, hk, hp, henc, by rw [← h, he]; rfl⟩

theorem exec_late_reply {s : State} {cw : Word16} {reply : List Byte} {late : Instr} (hc : s.cfg.Wf) (hb : s.buf = [])
    (hsess : s.sess ≠ .streaming)
    (hlate : late = match s.cfg.cfgTerm with | .marker => .cfgFrame cw reply | .checksum => .cfgFrameCk cw reply)
    (hwf : late.wellFormed s.cfg = true) :
    ∃ n, exec late s = .next (replyEffect cw reply { s with pos := s.pos + n }) := by
  obtain ⟨hmarker, hchecksum⟩ := configurationFrameIsHandled s cw reply hc hb hsess
  subst hlate
  cases hterm : s.cfg.cfgTerm with
  | marker =>
    simp only [hterm, Instr.wellFormed, Bool.and_eq_true, decide_eq_true_eq] at hwf
    exact ⟨_, hmarker hterm hwf.2⟩
  | checksum =>
    simp only [hterm, Instr.wellFormed, Bool.and_eq_true, decide_eq_true_eq] at hwf
    exact ⟨_, hchecksum hterm hwf.2⟩

/-- Settles O38: the second attempt expects the same word as the first, and nothing else tells their replies apart. -/
theorem staleReplyToTheSameCommandIsAccepted : Obligations.StaleReplyToTheSameCommandIsAccepted := by
  intro s t u cls cw ex chk p reply late hc hs hlate hwf hissue hok hticks
  obtain ⟨k, frame, hk, hp, henc, rfl⟩ := issued_of_exec_issue hissue hok
  have htimeout := runOps_ticks_times_out (s := issued k cw ex chk frame s.opStart) rfl hc.timeout_pos
  have hu := Option.some.inj (hticks.symm.trans htimeout)
  have hcfg : u.cfg = s.cfg := by rw [hu]; rfl
  have hhs : u.hs = .failed := by rw [hu]
  have hagain : issue cls cw ex chk p u.opStart = issued k cw ex chk frame u.opStart :=
    issue_accepted (by simp [hhs]) hk (by rw [State.opStart_cfg, hcfg]; exact hp)
      (by rw [State.opStart_cfg, hcfg]; exact henc)
  obtain ⟨n, hlate⟩ := exec_late_reply (s := issued k cw ex chk frame u.opStart) (cw := ex) (reply := reply)
    (late := late) (hcfg ▸ hc) rfl (by simp [issued]) (hcfg ▸ hlate) (hcfg ▸ hwf)
  refine ⟨_, _, by rw [exec_issue, hagain], rfl, hhs, by rw [hu], hlate, fun hacc => ?_, fun hrej => ?_⟩
  · exact replyEffect_accepted rfl rfl (hcfg ▸ hacc)
  · exact replyEffect_rejected rfl rfl (hcfg ▸ hrej)

end Sys2Proof.Proofs
end

section
/-! The host sequences where every attempt is answered in time, and where none is (44_session_controller.md R209 to
R213). -/

namespace Sys2Proof.Proofs

open Sys2Proof.Machine Sys2Proof.Spec

/-! ### One step of the host's loop -/

theorem runEnv_rx (bs : List Byte) : ∀ s : State, runEnv (bs.map .rx) s = receiveAll bs s := by
  induction bs with
  | nil => intro s; rfl
  | cons b bs ih => intro s; simp only [List.map_cons, runEnv, receiveAll, runEnvOp, ih]

/-- What the host sees where its POLL finds an empty buffer. -/
def polled (s : State) : State := s.setResult (.poll (pollStatus s) s.pCw (pollReply s))

theorem pollStatus_polled (s : State) : pollStatus (polled s) = pollStatus s := rfl

theorem poll_of_empty {s : State} (hb : s.buf = []) : poll s = .ok (polled s) := by
  have hdrain : drain s = .ok s := drain_waiting (by rw [hb]; exact waiting_nil _ _)
  simp only [poll, hdrain, bind, Except.bind]
  rfl

/-- AWAIT ends at the first POLL where the slot before it ends the command and leaves the buffer empty. -/
theorem await_of_ended {es : List EnvOp} {rest : Schedule} {s t : State} (henv : runEnv es s = .ok t) (hb : t.buf = [])
    (hs : t.hs ≠ .sent) : await (es :: rest) s = .ok (some (pollStatus t), rest, polled t) := by
  have hstatus : pollStatus t ≠ .pending := fun h => hs (pollStatus_pending.mp h)
  simp only [await, henv, poll_of_empty hb, bind, Except.bind, pollStatus_polled]
  exact if_neg hstatus

/-- The state an accepted ISSUE of a command leaves. -/
def commandIssued (m : Command) (frame : List Byte) (s : State) : State :=
  issued (rowClass m) (s.cfg.word m) (s.cfg.word m ||| s.cfg.replyFlag) (commandChk m) frame s

/-- How an attempt goes on from AWAIT's answer, with `n` attempts left behind it (44_session_controller.md R210). -/
def afterAwait (m : Command) (p : List Byte) (n : Nat) (rest : Schedule) (t : State) :
    Option PollStatus → Except Fault (SeqResult × Schedule × State)
  | none => .ok (.waiting, rest, t)
  | some st => if st = .acked then .ok (.success, rest, t) else attempts m p n (.status st) rest t

/-- An accepted attempt: AWAIT on what ISSUE leaves decides. -/
theorem attempts_of_await {m : Command} {p frame : List Byte} {n : Nat} {last : SeqError}
    {sched sched' rest : Schedule} {s u t : State} {st : Option PollStatus} (hslot : nextSlot sched s = .ok (sched', u))
    (hs : u.hs ≠ .sent) (hp : p.length ≤ u.cfg.txPayloadMax) (henc : encodeFrame u.cfg (u.cfg.word m) p = some frame)
    (hawait : await sched' (commandIssued m frame u) = .ok (st, rest, t)) :
    attempts m p (n + 1) last sched s = afterAwait m p n rest t st := by
  have hok : (commandIssued m frame u).result = .ok := rfl
  have hissue : issueCommand m p u = commandIssued m frame u := issueCommand_accepted hs hp henc
  simp only [attempts, hslot, hissue, hok, hawait, bind, Except.bind, if_true]
  rcases st with _ | st
  · rfl
  · cases st <;> rfl

/-! ### A command whose reply arrives -/

/-- The state after a command and its accepted reply. -/
def exchanged (m : Command) (tx reply rx : List Byte) (s : State) : State := { s with
  buf := [], pos := s.pos + s.buf.length + rx.length
  sess := sessAfterAck (rowClass m) (decide (s.sess = .configuring)), hs := .acked, failReason := .none
  tmoCnt := s.cfg.timeoutTicks, pClass := rowClass m, pCw := s.cfg.word m, pExpect := s.cfg.word m ||| s.cfg.replyFlag
  pChk := commandChk m, pPrior := decide (s.sess = .configuring)
  rpCw := s.cfg.word m ||| s.cfg.replyFlag, rpLen := reply.length, rpPayload := reply
  events := s.events ++ [.flushInput, .tx tx, .ackDone (s.cfg.word m ||| s.cfg.replyFlag) reply] }

theorem handleReply_accepted {s : State} {cw : Word16} {p : List Byte} (hs : s.hs = .sent) (hcw : cw = s.pExpect)
    (hacc : statusAccepted s.cfg p) :
    handleReply cw p s = ((s.storeReply cw p).ackCommand).emit (.ackDone cw p) := by
  have hst : statusOk s.cfg s.pChk p = true := statusOk_iff.mpr (.inr hacc)
  rcases handleReply_cases cw p s with ⟨-, -, -, he⟩ | ⟨-, -, hno, -⟩ | ⟨-, hne, -⟩ | ⟨hne, -⟩
  · exact he
  · rw [hst] at hno; cases hno
  · exact absurd hcw hne
  · exact absurd hs hne

theorem receiveAll_reply {s : State} {m : Command} {payload tx reply rx : List Byte} (hc : s.cfg.Wf)
    (hx : Exchange s.cfg m payload tx reply rx) :
    receiveAll rx (commandIssued m tx s) =
      .ok { exchanged m tx reply rx s with result := .ok } := by
  have hv : Validated s.cfg .cfg rx := validated_of_encodeFrame hc hx.answer hx.room
  refine (receiveAll_frame (s := commandIssued m tx s) hc hv rfl).trans ?_
  refine (handleCfg_of_fields (cfgFields_of_encodeFrame hx.answer) _).trans (congrArg _ ?_)
  refine Eq.trans (handleReply_accepted rfl rfl hx.accepted) ?_
  simp [exchanged, commandIssued, issued, State.emit, State.clearBuf, State.recordCommand, State.setResult, State.storeReply,
    State.ackCommand]

/-- COMMAND succeeds in its first attempt when the reply arrives before the first POLL (44_session_controller.md R210). -/
theorem runCommand_of_exchange {s : State} {m : Command} {payload tx reply rx : List Byte} (hc : s.cfg.Wf)
    (hs : s.hs ≠ .sent) (hx : Exchange s.cfg m payload tx reply rx) (rest : Schedule) :
    runCommand m payload ([] :: rx.map .rx :: rest) s =
      .ok (.success, rest, polled { exchanged m tx reply rx s with result := .ok }) := by
  obtain ⟨n, hn⟩ : ∃ n, s.cfg.nAttempts = n + 1 := ⟨s.cfg.nAttempts - 1, by have := hc.attempts_pos; omega⟩
  have hawait := await_of_ended (rest := rest) ((runEnv_rx rx _).trans (receiveAll_reply hc hx)) rfl
    (by simp [exchanged])
  rw [runCommand, hn]
  exact attempts_of_await rfl hs hx.fits hx.sent hawait

theorem exec_enterConfiguration (p : List Byte) (sched : Schedule) (s : State) :
    exec (.enterConfiguration p sched) s = seqOut (runCommand .enterConfig p sched s.opStart) := rfl

theorem exec_exitConfiguration (p : List Byte) (sched : Schedule) (s : State) :
    exec (.exitConfiguration p sched) s = seqOut (runExit p sched s.opStart) := rfl

/-- Settles O44. -/
theorem enterConfigurationSucceedsOnItsReply : Obligations.EnterConfigurationSucceedsOnItsReply := by
  intro s payload tx reply rx hc hs hx
  rw [exec_enterConfiguration, runCommand_of_exchange (s := s.opStart) hc hs hx []]
  rfl

theorem runExit_of_exchange {s : State} {payload tx reply rx : List Byte} (hc : s.cfg.Wf)
    (hx : Exchange s.cfg .exitConfig payload tx reply rx) (rest : Schedule) :
    runExit payload ([] :: [] :: rx.map .rx :: rest) s =
      .ok (.success, rest, polled { exchanged .exitConfig tx reply rx (cancel s) with result := .ok }) := by
  have hcfg : (cancel s).cfg = s.cfg := (sameSetting_cancel s).cfg
  have hs : (cancel s).hs ≠ .sent := by
    rcases cancel_cases s with ⟨hn, he⟩ | ⟨-, he⟩
    · rw [he]; exact hn
    · rw [he]; simp
  have hslot : cancelPending ([] :: [] :: rx.map .rx :: rest) s = .ok ([] :: rx.map .rx :: rest, cancel s) := rfl
  simp only [runExit, hslot, bind, Except.bind]
  exact runCommand_of_exchange (hcfg ▸ hc) hs (hcfg ▸ hx) rest

/-- Settles O46, by the two ways a CANCEL ends. -/
theorem exitConfigurationSucceedsOnItsReply : Obligations.ExitConfigurationSucceedsOnItsReply := by
  intro s payload tx reply rx hc hx
  rw [exec_exitConfiguration, runExit_of_exchange (s := s.opStart) hc hx []]
  rcases cancel_cases s.opStart with ⟨hn, he⟩ | ⟨hs, he⟩
  · simp only [State.opStart_hs] at hn
    rw [he]
    simp only [ne_eq, hn, not_false_eq_true, true_and]
    rfl
  · simp only [State.opStart_hs] at hs
    rw [he]
    simp only [ne_eq, hs, not_true_eq_false, false_and, decide_false]
    rfl

end Sys2Proof.Proofs
end

section
/-! APPLY_CONFIGURATION where every command is acknowledged, and ENTER_CONFIGURATION where none is
(44_session_controller.md R210, R212). -/

namespace Sys2Proof.Proofs

open Sys2Proof.Machine Sys2Proof.Spec

/-! ### The range checks (44_session_controller.md R213) -/

theorem freq_iff (f : Nat) : (5 ≤ f ∧ f ≤ 80 ∧ f % 5 = 0) ↔ ∃ k, 1 ≤ k ∧ k ≤ 16 ∧ f = 5 * k := by
  constructor
  · rintro ⟨h5, h80, hmod⟩
    exact ⟨f / 5, by omega, by omega, by omega⟩
  · rintro ⟨k, h1, h16, rfl⟩
    omega

theorem generalInRange_iff {g : GeneralParams} : generalInRange g = true ↔
    (1 ≤ g.farthestGate ∧ g.farthestGate ≤ 16) ∧ g.nearestGate ≤ 16 ∧ (10 ≤ g.unmannedDelay ∧ g.unmannedDelay ≤ 120) ∧
      (∃ k, 1 ≤ k ∧ k ≤ 16 ∧ g.statusFreq = 5 * k) ∧ ∃ k, 1 ≤ k ∧ k ≤ 16 ∧ g.distanceFreq = 5 * k := by
  simp only [generalInRange, Bool.and_eq_true, decide_eq_true_eq, freq_iff, and_assoc]

theorem thresholdsInRange_iff {c : Config} {t : List Nat} :
    thresholdsInRange c t = true ↔ t.length = c.maxGates ∧ ∀ v ∈ t, v ≤ 100 := by
  simp only [thresholdsInRange, Bool.and_eq_true, decide_eq_true_eq, List.all_eq_true]

theorem autoInRange_iff {a : AutoParams} : autoInRange a = true ↔
    (1 ≤ a.triggerFactor ∧ a.triggerFactor ≤ 10) ∧ (1 ≤ a.holdFactor ∧ a.holdFactor ≤ 10) ∧
      30 ≤ a.scanTime ∧ a.scanTime ≤ 600 := by
  simp only [autoInRange, Bool.and_eq_true, decide_eq_true_eq, and_assoc]

theorem option_all_iff {α : Type} {p : α → Bool} {o : Option α} : o.all p = true ↔ ∀ a ∈ o, p a = true := by
  cases o <;> simp

theorem paramsInRange_iff {c : Config} {ps : ParamSet} : paramsInRange c ps = true ↔ CatalogOk c ps := by
  simp only [paramsInRange, Bool.and_eq_true, option_all_iff, generalInRange_iff, thresholdsInRange_iff, autoInRange_iff,
    serialInRange, decide_eq_true_eq]
  constructor
  · rintro ⟨⟨⟨⟨hg, ht⟩, hh⟩, ha⟩, hs⟩
    exact ⟨fun g h => (hg g h).1, fun g h => (hg g h).2.1, fun g h => (hg g h).2.2.1, fun g h => (hg g h).2.2.2.1,
      fun g h => (hg g h).2.2.2.2, ht, hh, fun a h => (ha a h).1, fun a h => (ha a h).2.1, fun a h => (ha a h).2.2, hs⟩
  · intro h
    exact ⟨⟨⟨⟨fun g hg => ⟨h.farthest g hg, h.nearest g hg, h.delay g hg, h.status g hg, h.distance g hg⟩, h.trigger⟩,
      h.hold⟩, fun a ha => ⟨h.triggerFactor a ha, h.holdFactor a ha, h.scanTime a ha⟩⟩, h.serial⟩

theorem exec_applyConfiguration_of_inRange {s : State} {ps : ParamSet} (h : CatalogOk s.cfg ps) (p : Payloads)
    (sched : Schedule) : exec (.applyConfiguration ps p sched) s = seqOut (runApply ps p sched s.opStart) :=
  if_pos (paramsInRange_iff.mpr h)

theorem exec_applyConfiguration_of_outOfRange {s : State} {ps : ParamSet} (h : ¬ CatalogOk s.cfg ps) (p : Payloads)
    (sched : Schedule) : exec (.applyConfiguration ps p sched) s =
      .next (s.opStart.setResult (.sequence (.error .invalidArgument))) :=
  if_neg fun hr => h (paramsInRange_iff.mp hr)

/-! ### The commands of APPLY_CONFIGURATION before its exit -/

/-- ENTER_CONFIGURATION and the groups are the commands of one list (44_session_controller.md R212). -/
theorem commandsToApply_eq (ps : ParamSet) (p : Payloads) :
    commandsToApply ps p = (.enterConfig, p.enter) :: groupsOf ps p := by
  have hone : ∀ {α β : Type} (o : Option α) (b : β), (o.toList.map fun _ => b) = if o.isSome = true then [b] else [] :=
    fun o b => by cases o <;> rfl
  simp only [commandsToApply, groupsOf, hone]

theorem runEnterAndGroups_eq (ps : ParamSet) (p : Payloads) (sched : Schedule) (s : State) :
    runEnterAndGroups ps p sched s = runGroups (commandsToApply ps p) sched s := by
  rw [commandsToApply_eq]
  rfl

theorem rowClass_of_group {ps : ParamSet} {p : Payloads} {x : Command × List Byte} (h : x ∈ groupsOf ps p) :
    rowClass x.1 = .other := by
  simp only [groupsOf, List.mem_append] at h
  rcases h with ((h | h) | h) | h
  all_goals
    split at h
    · rw [List.mem_singleton.mp h]; rfl
    · cases h

/-! ### Every command acknowledged -/

/-- The state after commands that were each acknowledged, from a state with none pending: Configuring, with all frames
and acknowledgements in the events. -/
structure AllAcked (c : Config) (tx reply rx : Command → List Byte) (xs : List (Command × List Byte)) (s t : State) :
    Prop where
  setting : SameSetting s t
  buf : t.buf = []
  sess : t.sess = .configuring
  hs : t.hs ≠ .sent
  pos : t.pos = s.pos + s.buf.length + (xs.map fun x => (rx x.1).length).sum
  events : t.events = s.events ++ xs.flatMap fun x =>
    [.flushInput, .tx (tx x.1), .ackDone (c.word x.1 ||| c.replyFlag) (reply x.1)]

theorem runGroups_cons_of_success {m : Command} {p : List Byte} {rest : List (Command × List Byte)}
    {sched left : Schedule} {s t : State} (h : runCommand m p sched s = .ok (.success, left, t)) :
    runGroups ((m, p) :: rest) sched s = runGroups rest left t := by
  simp only [runGroups, h, bind, Except.bind]

/-- One acknowledged command in front of others. -/
theorem AllAcked.cons {tx reply rx : Command → List Byte} {x : Command × List Byte} {xs : List (Command × List Byte)}
    {s t : State} {r : OpResult}
    (h : AllAcked s.cfg tx reply rx xs
      (polled { exchanged x.1 (tx x.1) (reply x.1) (rx x.1) s with result := r }) t) :
    AllAcked s.cfg tx reply rx (x :: xs) s t where
  setting := ⟨h.setting.cfg, h.setting.tfam, h.setting.inq⟩
  buf := h.buf
  sess := h.sess
  hs := h.hs
  pos := by
    rw [h.pos, List.map_cons, List.sum_cons]
    simp [polled, exchanged, Nat.add_assoc]
  events := by
    rw [h.events, List.flatMap_cons]
    simp [polled, exchanged]

/-- The groups of APPLY_CONFIGURATION, each acknowledged, leave the session Configuring. -/
theorem runGroups_of_exchanges {tx reply rx : Command → List Byte} {rest : Schedule} (xs : List (Command × List Byte)) :
    ∀ s : State, s.cfg.Wf → s.hs ≠ .sent → s.sess = .configuring → s.buf = [] → (∀ x ∈ xs, rowClass x.1 = .other) →
      (∀ x ∈ xs, Exchange s.cfg x.1 x.2 (tx x.1) (reply x.1) (rx x.1)) →
      ∃ t, runGroups xs ((xs.flatMap fun x => [[], (rx x.1).map .rx]) ++ rest) s = .ok (.success, rest, t) ∧
        AllAcked s.cfg tx reply rx xs s t := by
  induction xs with
  | nil =>
    intro s hc hs hsess hb _ _
    exact ⟨s, rfl, ⟨rfl, rfl, rfl⟩, hb, hsess, hs, by simp [hb], by simp⟩
  | cons x xs ih =>
    intro s hc hs hsess hb hclass hx
    obtain ⟨m, p⟩ := x
    have hrun := runCommand_of_exchange hc hs (hx _ List.mem_cons_self)
      ((xs.flatMap fun x => [[], (rx x.1).map .rx]) ++ rest)
    have hother : rowClass m = .other := hclass _ List.mem_cons_self
    obtain ⟨t, ht, hacked⟩ := ih (polled { exchanged m (tx m) (reply m) (rx m) s with result := .ok }) hc
      (by simp [polled, exchanged]) (by simp [polled, exchanged, hother, hsess, sessAfterAck]) rfl
      (fun x h => hclass x (List.mem_cons_of_mem _ h)) (fun x h => hx x (List.mem_cons_of_mem _ h))
    refine ⟨t, ?_, .cons hacked⟩
    rw [List.flatMap_cons, List.append_assoc]
    exact (runGroups_cons_of_success hrun).trans ht

/-- ENTER_CONFIGURATION and the groups, each acknowledged. -/
theorem runEnterAndGroups_of_exchanges {tx reply rx : Command → List Byte} {rest : Schedule} {s : State} {ps : ParamSet}
    {p : Payloads} (hc : s.cfg.Wf) (hs : s.hs ≠ .sent)
    (hx : ∀ x ∈ commandsToApply ps p, Exchange s.cfg x.1 x.2 (tx x.1) (reply x.1) (rx x.1)) :
    ∃ t, runEnterAndGroups ps p (((commandsToApply ps p).flatMap fun x => [[], (rx x.1).map .rx]) ++ rest) s =
        .ok (.success, rest, t) ∧ AllAcked s.cfg tx reply rx (commandsToApply ps p) s t := by
  rw [runEnterAndGroups_eq]
  rw [commandsToApply_eq] at hx ⊢
  have hrun := runCommand_of_exchange hc hs (hx _ List.mem_cons_self)
    (((groupsOf ps p).flatMap fun x => [[], (rx x.1).map .rx]) ++ rest)
  obtain ⟨t, ht, hacked⟩ := runGroups_of_exchanges (tx := tx) (reply := reply) (rx := rx) (rest := rest) (groupsOf ps p)
    (polled { exchanged .enterConfig (tx .enterConfig) (reply .enterConfig) (rx .enterConfig) s with result := .ok }) hc
    (by simp [polled, exchanged]) rfl rfl (fun x h => rowClass_of_group h)
    (fun x h => hx x (List.mem_cons_of_mem _ h))
  refine ⟨t, ?_, .cons hacked⟩
  rw [List.flatMap_cons, List.append_assoc]
  exact (runGroups_cons_of_success hrun).trans ht

/-- Settles O47: the commands before the exit leave the session Configuring with none pending, so the exit cancels
nothing. -/
theorem applyConfigurationWritesEveryGroup : Obligations.ApplyConfigurationWritesEveryGroup := by
  intro s ps p tx reply rx hc hs hok hx
  obtain ⟨u, hu, hacked⟩ := runEnterAndGroups_of_exchanges (s := s.opStart) (tx := tx) (reply := reply) (rx := rx)
    (rest := [[], [], (rx .exitConfig).map .rx]) hc hs fun x h => hx x (List.mem_append_left _ h)
  obtain ⟨⟨hcfg, htfam, hinq⟩, hbuf, hsess, hnot, hpos, hevents⟩ := hacked
  simp only [State.opStart_cfg, State.opStart_tfam, State.opStart_inq, State.opStart_pos, State.opStart_buf,
    State.opStart_events, List.nil_append] at hcfg htfam hinq hpos hevents
  have hexit := runExit_of_exchange (s := u) (hcfg ▸ hc) (hcfg ▸ hx _ (List.mem_append_right _ (List.mem_singleton.mpr rfl)))
    []
  have hcancel : cancel u = u := by
    rcases cancel_cases u with ⟨-, he⟩ | ⟨hsent, -⟩
    · exact he
    · exact absurd hsent hnot
  rw [exec_applyConfiguration_of_inRange hok]
  simp only [runApply, hu, hexit, bind, Except.bind, hcancel, seqOut, firstError]
  simp only [polled, exchanged, State.setResult, hcfg, htfam, hinq, hbuf, hsess, hpos, hevents]
  simp only [List.map_append, List.sum_append, List.flatMap_append, List.map_cons, List.map_nil, List.sum_singleton,
    List.flatMap_singleton, List.length_nil, Nat.add_zero, Nat.add_assoc]
  rfl

/-! ### No command acknowledged -/

theorem runEnv_ticks_counts (n : Nat) : ∀ s : State, s.hs = .sent → n < s.tmoCnt →
    runEnv (List.replicate n .tick) s = .ok { s with tmoCnt := s.tmoCnt - n } := by
  induction n with
  | zero => intro s hs h; rfl
  | succ n ih =>
    intro s hs h
    have htick := tick_counts hs (by omega : 2 ≤ s.tmoCnt)
    rw [List.replicate_succ]
    simp only [runEnv, runEnvOp, htick, bind, Except.bind]
    rw [ih { s with tmoCnt := s.tmoCnt - 1 } hs (by simp only; omega)]
    simp only [Nat.sub_sub, Nat.add_comm 1]

theorem runEnv_append (as bs : List EnvOp) : ∀ {s t : State}, runEnv as s = .ok t → runEnv (as ++ bs) s = runEnv bs t := by
  induction as with
  | nil => intro s t h; cases h; rfl
  | cons a as ih =>
    intro s t h
    obtain ⟨u, hu, h⟩ := bind_eq_ok.mp h
    simp only [List.cons_append, runEnv, hu, bind, Except.bind]
    exact ih h

/-- The timer runs out at its last TICK (43_command_ack.md R178). -/
theorem runEnv_ticks_times_out {s : State} (hs : s.hs = .sent) (h1 : 1 ≤ s.tmoCnt) :
    runEnv (List.replicate s.tmoCnt .tick) s = .ok { s with
      tmoCnt := 0, hs := .failed, failReason := .timeout, sess := .streaming
      events := s.events ++ [.cmdTimeout] } := by
  obtain ⟨n, hn⟩ : ∃ n, s.tmoCnt = n + 1 := ⟨s.tmoCnt - 1, by omega⟩
  have hlast := tick_times_out (s := { s with tmoCnt := s.tmoCnt - n }) hs (by simp only; omega)
  rw [hn, List.replicate_succ', runEnv_append _ _ (runEnv_ticks_counts n s hs (by omega))]
  simp only [runEnv, runEnvOp, hlast, bind, Except.bind]

/-- The state after `k` attempts of a command that each timed out. -/
def timedOut (m : Command) (tx : List Byte) (k : Nat) (s : State) : State := { s with
  buf := [], pos := s.pos + s.buf.length
  sess := .streaming, hs := .failed, failReason := .timeout, tmoCnt := 0
  pClass := rowClass m, pCw := s.cfg.word m, pExpect := s.cfg.word m ||| s.cfg.replyFlag
  pChk := commandChk m, pPrior := decide (k = 1 ∧ s.sess = .configuring)
  events := s.events ++ (List.replicate k [.flushInput, .tx tx, .cmdTimeout]).flatten
  result := .poll .timedOut (s.cfg.word m) none }

/-- One attempt that times out: its answer is the status, and the next attempt starts from the state it leaves. -/
theorem attempts_of_timeout {m : Command} {p tx : List Byte} {n : Nat} {last : SeqError} {rest : Schedule} {s : State}
    (hc : s.cfg.Wf) (hs : s.hs ≠ .sent) (hp : p.length ≤ s.cfg.txPayloadMax)
    (henc : encodeFrame s.cfg (s.cfg.word m) p = some tx) :
    attempts m p (n + 1) last ([] :: List.replicate s.cfg.timeoutTicks .tick :: rest) s =
      attempts m p n (.status .timedOut) rest (timedOut m tx 1 s) := by
  have henv := runEnv_ticks_times_out (s := commandIssued m tx s) rfl hc.timeout_pos
  have hawait := await_of_ended (rest := rest) henv rfl (by simp)
  have hend : polled { commandIssued m tx s with
      tmoCnt := 0, hs := .failed, failReason := .timeout, sess := .streaming
      events := (commandIssued m tx s).events ++ [.cmdTimeout] } = timedOut m tx 1 s := by
    simp [polled, commandIssued, issued, timedOut, State.setResult, State.emit, State.clearBuf, State.recordCommand,
      pollStatus, pollReply]
  rw [hend] at hawait
  exact attempts_of_await rfl hs hp henc hawait

theorem timedOut_timedOut (m : Command) (tx : List Byte) (k : Nat) (s : State) :
    timedOut m tx (k + 1) (timedOut m tx 1 s) = timedOut m tx (k + 2) s := by
  simp [timedOut, List.replicate_succ]

/-- Attempts that each time out are all made, and the last status is the answer (44_session_controller.md R210). -/
theorem attempts_of_timeouts {m : Command} {p tx : List Byte} (n : Nat) : ∀ (last : SeqError) (s : State), s.cfg.Wf →
    s.hs ≠ .sent → p.length ≤ s.cfg.txPayloadMax → encodeFrame s.cfg (s.cfg.word m) p = some tx →
    attempts m p (n + 1) last
        (List.replicate (n + 1) [[], List.replicate s.cfg.timeoutTicks EnvOp.tick]).flatten s =
      .ok (.error (.status .timedOut), [], timedOut m tx (n + 1) s) := by
  induction n with
  | zero => intro last s hc hs hp henc; exact attempts_of_timeout hc hs hp henc
  | succ n ih =>
    intro last s hc hs hp henc
    rw [List.replicate_succ, List.flatten_cons]
    refine (attempts_of_timeout hc hs hp henc).trans ?_
    refine (ih (.status .timedOut) (timedOut m tx 1 s) hc (by simp [timedOut]) hp henc).trans ?_
    rw [timedOut_timedOut]

/-- Settles O45. -/
theorem enterConfigurationGivesUpAfterTheLastAttempt : Obligations.EnterConfigurationGivesUpAfterTheLastAttempt := by
  intro s payload tx hc hs hp henc
  obtain ⟨n, hn⟩ : ∃ n, s.cfg.nAttempts = n + 1 := ⟨s.cfg.nAttempts - 1, by have := hc.attempts_pos; omega⟩
  have hrun := attempts_of_timeouts (m := .enterConfig) n .notAttempted s.opStart hc hs hp henc
  rw [State.opStart_cfg] at hrun
  rw [exec_enterConfiguration, runCommand, State.opStart_cfg, hn, hrun]
  simp only [seqOut, timedOut, State.setResult, State.opStart, List.nil_append]
  rfl

end Sys2Proof.Proofs
end

section
/-! The host sequences for every schedule of the other agents (44_session_controller.md R209 to R213): a command that was
sent is pending, acknowledged or failed, and the sequence reports which. -/

namespace Sys2Proof.Proofs

open Sys2Proof.Machine Sys2Proof.Spec

/-! ### What every operation of a sequence keeps: the parameters, and the events emitted so far -/

/-- The parameters are `c`, and the events begin with `evs`. -/
structure Kept (c : Config) (evs : List Event) (s : State) : Prop where
  cfg : s.cfg = c
  grown : evs <+: s.events

theorem Kept.refl (s : State) : Kept s.cfg s.events s := ⟨rfl, List.prefix_rfl⟩

section

variable {c : Config} {evs : List Event} {s t : State}

theorem Kept.of_events (h : Kept c evs s) (hcfg : t.cfg = s.cfg) {new : List Event} (hnew : t.events = s.events ++ new) :
    Kept c evs t :=
  ⟨hcfg.trans h.cfg, h.grown.trans (hnew ▸ List.prefix_append _ _)⟩

theorem Kept.of_same (h : Kept c evs s) (hcfg : t.cfg = s.cfg) (hevents : t.events = s.events) : Kept c evs t :=
  h.of_events hcfg (new := []) (by rw [hevents, List.append_nil])

theorem kept_handleReply (h : Kept c evs s) (cw : Word16) (p : List Byte) : Kept c evs (handleReply cw p s) := by
  rcases handleReply_cases cw p s with ⟨-, -, -, he⟩ | ⟨-, -, -, he⟩ | ⟨-, -, he⟩ | ⟨-, he⟩
  · rw [he]; exact h.of_events rfl rfl
  · rw [he]; exact h.of_events rfl rfl
  · rw [he]; exact h.of_events rfl (List.append_assoc _ _ _)
  · rw [he]; exact h.of_events rfl rfl

theorem kept_drainStep (h : Kept c evs s) (hstep : DrainStep s t) : Kept c evs t := by
  cases hstep with
  | scan => exact h.of_events rfl rfl
  | tlmMin => exact h.of_events rfl rfl
  | tlmStd => exact h.of_events rfl rfl
  | reply cw p => exact kept_handleReply h cw p

theorem kept_feed (h : Kept c evs s) (b : Byte) : Kept c evs (feed b s) := by
  rcases feed_cases b s with ⟨-, he⟩ | ⟨-, he⟩
  · rw [he]; exact h.of_same rfl rfl
  · rw [he]; exact h.of_events rfl rfl

theorem kept_received (h : Kept c evs s) (hr : Received s t) : Kept c evs t :=
  hr.closure (fun _ _ hstep hs => kept_drainStep hs hstep) (fun _ b hs => kept_feed hs b) h

theorem kept_tick (h : Kept c evs s) : Kept c evs (tick s) := by
  rcases tick_cases s with ⟨-, he⟩ | ⟨-, -, he⟩ | ⟨-, -, he⟩
  · rw [he]; exact h
  · rw [he]; exact h.of_same rfl rfl
  · rw [he]; exact h.of_events rfl rfl

theorem kept_xerr (h : Kept c evs s) : Kept c evs (xerr s) := by
  rcases xerr_cases s with ⟨-, he⟩ | ⟨-, he⟩
  · rw [he]; exact h.of_same rfl rfl
  · rw [he]; exact h.of_events rfl rfl

theorem kept_cancel (h : Kept c evs s) : Kept c evs (cancel s) := by
  rcases cancel_cases s with ⟨-, he⟩ | ⟨-, he⟩
  · rw [he]; exact h
  · rw [he]; exact h.of_same rfl rfl

theorem kept_issueCommand (h : Kept c evs s) (m : Command) (p : List Byte) : Kept c evs (issueCommand m p s) := by
  rcases issue_cases (commandClass m) (s.cfg.word m) (replyOf s.cfg (s.cfg.word m)) (commandChk m) p s with
    ⟨he, -⟩ | ⟨he, -⟩ | ⟨-, k, frame, -, -, -, he⟩
  · rw [issueCommand, he]; exact h.of_same rfl rfl
  · rw [issueCommand, he]; exact h.of_same rfl rfl
  · rw [issueCommand, he]; exact h.of_events rfl (List.append_assoc _ _ _)

theorem kept_setResult (h : Kept c evs s) (r : OpResult) : Kept c evs (s.setResult r) := h.of_same rfl rfl

theorem kept_nextSlot {sched left : Schedule} (h : Kept c evs s) (hslot : nextSlot sched s = .ok (left, t)) :
    Kept c evs t :=
  nextSlot_closure (Kept c evs) (fun _ _ _ hs hr => kept_received hs (received_of_receive hr)) (fun _ => kept_tick)
    (fun _ => kept_xerr) sched s _ h hslot

theorem kept_runCommand {m : Command} {p : List Byte} {sched left : Schedule} {r : SeqResult} (h : Kept c evs s)
    (hrun : runCommand m p sched s = .ok (r, left, t)) : Kept c evs t :=
  attempts_closure (Kept c evs) (fun _ _ _ hs hr => kept_received hs (received_of_receive hr))
    (fun _ _ hs hd => kept_received hs (drained_of_drain hd).1.received) (fun _ => kept_tick) (fun _ => kept_xerr)
    (fun m p _ hs => kept_issueCommand hs m p) (fun _ r hs => kept_setResult hs r) m p _ _ _ _ _ h hrun

end

/-! ### No operation of another agent makes a command pending -/

theorem notSent_received {s t : State} (h : s.hs ≠ .sent) (hr : Received s t) : t.hs ≠ .sent := fun hsent =>
  h ((received_outcome hr).pending hsent).1

theorem notSent_nextSlot {sched left : Schedule} {s t : State} (h : s.hs ≠ .sent)
    (hslot : nextSlot sched s = .ok (left, t)) : t.hs ≠ .sent :=
  nextSlot_closure (fun u => u.hs ≠ .sent) (fun _ _ _ hs hr => notSent_received hs (received_of_receive hr))
    (fun u hs => by rw [tick_of_not_sent hs]; exact hs)
    (fun u hs => by
      rcases xerr_cases u with ⟨-, he⟩ | ⟨hsent, -⟩
      · rw [he]; exact hs
      · exact absurd hsent hs) sched s _ h hslot

/-! ### A command that was sent -/

/-- A command that was sent is pending, or acknowledged by an event behind `evs`, or failed
(44_session_controller.md R203). -/
inductive Progress (evs : List Event) (s : State) : Prop where
  | pending (hhs : s.hs = .sent) (hsess : s.sess = .awaitingAck)
  | acked (hhs : s.hs = .acked) (hsess : s.sess = sessAfterAck s.pClass s.pPrior) (new : List Event)
      (hnew : s.events = evs ++ new) (p : List Byte) (hack : Event.ackDone s.pExpect p ∈ new)
  | failed (hhs : s.hs = .failed) (hsess : s.sess = .streaming) (hreason : s.failReason ≠ .none)

/-- The command registers are those of `m`, sent behind the events `evs`. -/
structure Underway (c : Config) (m : Command) (evs : List Event) (s : State) : Prop extends Kept c evs s where
  pCw : s.pCw = c.word m
  pExpect : s.pExpect = c.word m ||| c.replyFlag
  pClass : s.pClass = rowClass m
  progress : Progress evs s

section

variable {c : Config} {m : Command} {evs : List Event} {s t : State}

theorem Progress.of_events (h : Progress evs s) (hhs : t.hs = s.hs) (hsess : t.sess = s.sess)
    (hreason : t.failReason = s.failReason) (hclass : t.pClass = s.pClass) (hprior : t.pPrior = s.pPrior)
    (hexpect : t.pExpect = s.pExpect) {new : List Event} (hnew : t.events = s.events ++ new) : Progress evs t := by
  cases h with
  | pending h1 h2 => exact .pending (hhs.trans h1) (hsess.trans h2)
  | failed h1 h2 h3 => exact .failed (hhs.trans h1) (hsess.trans h2) (hreason ▸ h3)
  | acked h1 h2 old hold p hack =>
    refine .acked (hhs.trans h1) ?_ (old ++ new) ?_ p (List.mem_append_left _ ?_)
    · rw [hsess, h2, hclass, hprior]
    · rw [hnew, hold, List.append_assoc]
    · rw [hexpect]; exact hack

/-- Whatever leaves handler, session and command registers alone and forgets no event keeps the command underway. -/
theorem Underway.of_events (h : Underway c m evs s) (hcfg : t.cfg = s.cfg) (hhs : t.hs = s.hs) (hsess : t.sess = s.sess)
    (hreason : t.failReason = s.failReason) (hcw : t.pCw = s.pCw) (hclass : t.pClass = s.pClass)
    (hprior : t.pPrior = s.pPrior) (hexpect : t.pExpect = s.pExpect) {new : List Event}
    (hnew : t.events = s.events ++ new) : Underway c m evs t where
  toKept := h.toKept.of_events hcfg hnew
  pCw := hcw.trans h.pCw
  pExpect := hexpect.trans h.pExpect
  pClass := hclass.trans h.pClass
  progress := h.progress.of_events hhs hsess hreason hclass hprior hexpect hnew

theorem Underway.of_same (h : Underway c m evs s) (hcfg : t.cfg = s.cfg) (hhs : t.hs = s.hs) (hsess : t.sess = s.sess)
    (hreason : t.failReason = s.failReason) (hcw : t.pCw = s.pCw) (hclass : t.pClass = s.pClass)
    (hprior : t.pPrior = s.pPrior) (hexpect : t.pExpect = s.pExpect) (hevents : t.events = s.events) :
    Underway c m evs t :=
  h.of_events hcfg hhs hsess hreason hcw hclass hprior hexpect (new := []) (by rw [hevents, List.append_nil])

theorem Underway.failed (h : Underway c m evs s) (hcfg : t.cfg = s.cfg) (hhs : t.hs = .failed) (hsess : t.sess = .streaming)
    (hreason : t.failReason ≠ .none) (hcw : t.pCw = s.pCw) (hclass : t.pClass = s.pClass)
    (hexpect : t.pExpect = s.pExpect) {new : List Event} (hnew : t.events = s.events ++ new) : Underway c m evs t where
  toKept := h.toKept.of_events hcfg hnew
  pCw := hcw.trans h.pCw
  pExpect := hexpect.trans h.pExpect
  pClass := hclass.trans h.pClass
  progress := .failed hhs hsess hreason

theorem underway_handleReply (h : Underway c m evs s) (cw : Word16) (p : List Byte) :
    Underway c m evs (handleReply cw p s) := by
  rcases handleReply_cases cw p s with ⟨-, rfl, -, he⟩ | ⟨-, -, -, he⟩ | ⟨-, -, he⟩ | ⟨-, he⟩
  · obtain ⟨new, hnew⟩ := h.grown
    have hevents : (handleReply s.pExpect p s).events = evs ++ (new ++ [.ackDone s.pExpect p]) := by
      rw [he, ← List.append_assoc, hnew]; rfl
    rw [he] at hevents ⊢
    exact ⟨h.toKept.of_events rfl rfl, h.pCw, h.pExpect, h.pClass, .acked rfl rfl _ hevents p (by simp)⟩
  · rw [he]; exact h.failed rfl rfl rfl (by simp) rfl rfl rfl rfl
  · rw [he]; exact h.of_events rfl rfl rfl rfl rfl rfl rfl rfl (List.append_assoc _ _ _)
  · rw [he]; exact h.of_events rfl rfl rfl rfl rfl rfl rfl rfl rfl

theorem underway_drainStep (h : Underway c m evs s) (hstep : DrainStep s t) : Underway c m evs t := by
  cases hstep with
  | scan => exact h.of_events rfl rfl rfl rfl rfl rfl rfl rfl rfl
  | tlmMin => exact h.of_events rfl rfl rfl rfl rfl rfl rfl rfl rfl
  | tlmStd => exact h.of_events rfl rfl rfl rfl rfl rfl rfl rfl rfl
  | reply cw p => exact underway_handleReply h cw p

theorem underway_feed (h : Underway c m evs s) (b : Byte) : Underway c m evs (feed b s) := by
  rcases feed_cases b s with ⟨-, he⟩ | ⟨-, he⟩
  · rw [he]; exact h.of_same rfl rfl rfl rfl rfl rfl rfl rfl rfl
  · rw [he]; exact h.of_events rfl rfl rfl rfl rfl rfl rfl rfl rfl

theorem underway_received (h : Underway c m evs s) (hr : Received s t) : Underway c m evs t :=
  hr.closure (fun _ _ hstep hs => underway_drainStep hs hstep) (fun _ b hs => underway_feed hs b) h

theorem underway_tick (h : Underway c m evs s) : Underway c m evs (tick s) := by
  rcases tick_cases s with ⟨-, he⟩ | ⟨-, -, he⟩ | ⟨-, -, he⟩
  · rw [he]; exact h
  · rw [he]; exact h.of_same rfl rfl rfl rfl rfl rfl rfl rfl rfl
  · rw [he]; exact h.failed rfl rfl rfl (by simp) rfl rfl rfl rfl

theorem underway_xerr (h : Underway c m evs s) : Underway c m evs (xerr s) := by
  rcases xerr_cases s with ⟨-, he⟩ | ⟨-, he⟩
  · rw [he]; exact h.of_same rfl rfl rfl rfl rfl rfl rfl rfl rfl
  · rw [he]; exact h.failed rfl rfl rfl (by simp) rfl rfl rfl rfl

theorem underway_await {sched left : Schedule} {r : Option PollStatus} (h : Underway c m evs s)
    (hawait : await sched s = .ok (r, left, t)) : Underway c m evs t :=
  await_closure (Underway c m evs) (fun _ _ _ hs hr => underway_received hs (received_of_receive hr))
    (fun _ _ hs hd => underway_received hs (drained_of_drain hd).1.received) (fun _ => underway_tick)
    (fun _ => underway_xerr) (fun _ _ hs => hs.of_same rfl rfl rfl rfl rfl rfl rfl rfl rfl) sched s _ h hawait

/-- An accepted ISSUE puts its command underway. -/
theorem underway_commandIssued (h : Kept c evs s) (frame : List Byte) : Underway c m evs (commandIssued m frame s) where
  toKept := h.of_events rfl (List.append_assoc _ _ _)
  pCw := by rw [← h.cfg]; rfl
  pExpect := by rw [← h.cfg]; rfl
  pClass := rfl
  progress := .pending rfl rfl

end

end Sys2Proof.Proofs
end

section
/-! How the host sequences end, and that they report it (44_session_controller.md R209 to R213). -/

namespace Sys2Proof.Proofs

open Sys2Proof.Machine Sys2Proof.Spec

/-! ### AWAIT -/

/-- AWAIT answers the status of the state it ends in; none where the command is still pending. -/
theorem await_answer (sched : Schedule) : ∀ {s t : State} {r : Option PollStatus} {left : Schedule},
    await sched s = .ok (r, left, t) → r = if pollStatus t = .pending then none else some (pollStatus t) := by
  induction sched with
  | nil =>
    intro s t r left h
    obtain ⟨u, hu, h⟩ := bind_eq_ok.mp h
    split at h
    · rename_i hp; cases h; rw [if_pos hp]
    · rename_i hp; cases h; rw [if_neg hp]
  | cons es rest ih =>
    intro s t r left h
    obtain ⟨u, hu, h⟩ := bind_eq_ok.mp h
    obtain ⟨v, hv, h⟩ := bind_eq_ok.mp h
    split at h
    · exact ih h
    · rename_i hp; cases h; rw [if_neg hp]

/-! ### COMMAND -/

/-- How COMMAND ends on a command that was sent, and the session it leaves (44_session_controller.md R203, R210, R212). -/
inductive Ended (c : Config) (m : Command) (evs : List Event) (r : SeqResult) (t : State) : Prop where
  | success (hu : Underway c m evs t) (hr : r = .success) (hhs : t.hs = .acked)
      (hsess : t.sess = sessAfterAck (rowClass m) t.pPrior)
  | failed (hu : Underway c m evs t) (hr : r = .error (.status (pollStatus t))) (hhs : t.hs = .failed)
      (hsess : t.sess = .streaming)
  | waiting (hu : Underway c m evs t) (hr : r = .waiting) (hhs : t.hs = .sent) (hsess : t.sess = .awaitingAck)

theorem Ended.underway {c : Config} {m : Command} {evs : List Event} {r : SeqResult} {t : State}
    (h : Ended c m evs r t) : Underway c m evs t := by
  cases h with
  | success hu => exact hu
  | failed hu => exact hu
  | waiting hu => exact hu

/-- How attempts with none pending end: the command was sent, or its payload is too long. -/
inductive CommandEnd (c : Config) (m : Command) (p : List Byte) (evs : List Event) (r : SeqResult) (t : State) : Prop where
  | sent (h : Ended c m evs r t)
  | tooLong (hr : r = .error .invalidArgument) (hp : c.txPayloadMax < p.length)

theorem encodeFrame_of_le {c : Config} {p : List Byte} (hc : c.Wf) (hp : p.length ≤ c.txPayloadMax) (cw : Word16) :
    ∃ w, encodeFrame c cw p = some w := by
  have hmax := hc.tx_max
  cases hterm : c.cfgTerm with
  | marker => exact ⟨_, encodeFrame_eq_some.mpr ⟨by omega, .inl ⟨hterm, rfl⟩⟩⟩
  | checksum => exact ⟨_, encodeFrame_eq_some.mpr ⟨by omega, .inr ⟨hterm, rfl⟩⟩⟩

/-- A command with too long a payload is refused. -/
theorem issueCommand_tooLong {m : Command} {p : List Byte} {s : State} (hs : s.hs ≠ .sent)
    (hp : s.cfg.txPayloadMax < p.length) : issueCommand m p s = s.setResult .invalidArgument := by
  rcases issue_cases (commandClass m) (s.cfg.word m) (replyOf s.cfg (s.cfg.word m)) (commandChk m) p s with
    ⟨-, hsent⟩ | ⟨he, -⟩ | ⟨-, -, -, -, hle, -⟩
  · exact absurd hsent hs
  · exact he
  · omega

theorem issueCommand_busy {m : Command} {p : List Byte} {s : State} (hs : s.hs = .sent) :
    issueCommand m p s = s.setResult .busy := by
  rcases issue_cases (commandClass m) (s.cfg.word m) (replyOf s.cfg (s.cfg.word m)) (commandChk m) p s with
    ⟨he, -⟩ | ⟨-, hn⟩ | ⟨hn, -⟩
  · exact he
  · exact absurd hs hn
  · exact absurd hs hn

/-- A refused attempt ends the sequence with its error. -/
theorem attempts_of_refused {m : Command} {p : List Byte} {n : Nat} {last : SeqError} {sched sched' : Schedule}
    {s u : State} {r : OpResult} (hslot : nextSlot sched s = .ok (sched', u)) (he : issueCommand m p u = u.setResult r)
    (hr : r ≠ .ok) : attempts m p (n + 1) last sched s = .ok (.error (issueError r), sched', u.setResult r) := by
  simp only [attempts, hslot, he, bind, Except.bind, State.setResult_result, if_neg hr]

section

variable {c : Config} {m : Command} {p : List Byte} {evs : List Event}

/-- One attempt from a state with none pending, given how the attempts behind a failed one end. -/
theorem attempt_ends {n : Nat} {last : SeqError} {sched sched' left : Schedule} {s u t : State} {r : SeqResult}
    (hc : c.Wf) (hslot : nextSlot sched s = .ok (sched', u)) (hu : Kept c evs u) (hs : u.hs ≠ .sent)
    (hnext : ∀ sched s, Underway c m evs s → s.hs = .failed →
      attempts m p n (.status (pollStatus s)) sched s = .ok (r, left, t) → CommandEnd c m p evs r t)
    (h : attempts m p (n + 1) last sched s = .ok (r, left, t)) : CommandEnd c m p evs r t := by
  by_cases hp : p.length ≤ c.txPayloadMax
  · obtain ⟨frame, henc⟩ := encodeFrame_of_le hc hp (u.cfg.word m)
    obtain ⟨⟨st, rest, v⟩, hawait⟩ := await_isOk sched' (commandIssued m frame u)
    have hv := underway_await (underway_commandIssued (m := m) hu frame) hawait
    have hst := await_answer _ hawait
    have hattempt := attempts_of_await (last := last) (n := n) hslot hs (hu.cfg ▸ hp) (hu.cfg ▸ henc) hawait
    rw [hattempt] at h
    cases hv.progress with
    | pending hhs hsess =>
      rw [hst, if_pos (pollStatus_pending.mpr hhs)] at h
      cases h
      exact .sent (.waiting hv rfl hhs hsess)
    | acked hhs hsess =>
      have hack := pollStatus_acked.mpr hhs
      rw [hst, hack, if_neg (by decide), afterAwait, if_pos rfl] at h
      cases h
      exact .sent (.success hv rfl hhs (hv.pClass ▸ hsess))
    | failed hhs hsess =>
      have hpending : pollStatus v ≠ .pending := fun he => by
        have hsent := pollStatus_pending.mp he
        rw [hhs] at hsent
        cases hsent
      have hacked : pollStatus v ≠ .acked := fun he => by
        have hack := pollStatus_acked.mp he
        rw [hhs] at hack
        cases hack
      rw [hst, if_neg hpending, afterAwait, if_neg hacked] at h
      exact hnext rest v hv hhs h
  · have hlong : c.txPayloadMax < p.length := by omega
    rw [attempts_of_refused hslot (issueCommand_tooLong hs (hu.cfg ▸ hlong)) (by simp)] at h
    cases h
    exact .tooLong rfl hlong

/-- Attempts behind a failed one: the last status is reported where none is left. -/
theorem attempts_end_after_failure (hc : c.Wf) (n : Nat) : ∀ {sched left : Schedule} {s t : State} {r : SeqResult},
    Underway c m evs s → s.hs = .failed → attempts m p n (.status (pollStatus s)) sched s = .ok (r, left, t) →
    CommandEnd c m p evs r t := by
  induction n with
  | zero =>
    intro sched left s t r hs hhs h
    cases h
    have hsess : s.sess = .streaming := by
      cases hs.progress with
      | pending h' => rw [hhs] at h'; cases h'
      | acked h' => rw [hhs] at h'; cases h'
      | failed _ hsess => exact hsess
    exact .sent (.failed hs rfl hhs hsess)
  | succ n ih =>
    intro sched left s t r hs hhs h
    obtain ⟨⟨sched', u⟩, hslot⟩ := nextSlot_isOk sched s
    have hnot : u.hs ≠ .sent := notSent_nextSlot (by rw [hhs]; simp) hslot
    exact attempt_ends hc hslot (kept_nextSlot hs.toKept hslot) hnot (fun _ _ hv hf h => ih hv hf h) h

/-- COMMAND from a state with none pending. -/
theorem runCommand_ends {sched left : Schedule} {s t : State} {r : SeqResult} (hc : c.Wf) (hk : Kept c evs s)
    (hs : s.hs ≠ .sent) (h : runCommand m p sched s = .ok (r, left, t)) : CommandEnd c m p evs r t := by
  obtain ⟨n, hn⟩ : ∃ n, s.cfg.nAttempts = n + 1 :=
    ⟨s.cfg.nAttempts - 1, by have := hc.attempts_pos; rw [hk.cfg]; omega⟩
  rw [runCommand, hn] at h
  obtain ⟨⟨sched', u⟩, hslot⟩ := nextSlot_isOk sched s
  exact attempt_ends hc hslot (kept_nextSlot hk hslot) (notSent_nextSlot hs hslot)
    (fun _ _ hv hf h => attempts_end_after_failure hc n hv hf h) h

/-- COMMAND from any state: where an earlier command is still pending at its first attempt, it is busy. -/
theorem runCommand_ends_or_busy {sched left : Schedule} {s t : State} {r : SeqResult} (hc : c.Wf) (hk : Kept c evs s)
    (h : runCommand m p sched s = .ok (r, left, t)) :
    CommandEnd c m p evs r t ∨ r = .error .busy ∧ t.hs = .sent := by
  obtain ⟨n, hn⟩ : ∃ n, s.cfg.nAttempts = n + 1 :=
    ⟨s.cfg.nAttempts - 1, by have := hc.attempts_pos; rw [hk.cfg]; omega⟩
  rw [runCommand, hn] at h
  obtain ⟨⟨sched', u⟩, hslot⟩ := nextSlot_isOk sched s
  by_cases hu : u.hs = .sent
  · rw [attempts_of_refused hslot (issueCommand_busy hu) (by simp)] at h
    cases h
    exact .inr ⟨rfl, hu⟩
  · exact .inl (attempt_ends hc hslot (kept_nextSlot hk hslot) hu
      (fun _ _ hv hf h => attempts_end_after_failure hc n hv hf h) h)

end

/-! ### ENTER_CONFIGURATION and EXIT_CONFIGURATION -/

/-- Settles O41. -/
theorem enterConfigurationEndsAsItReports : Obligations.EnterConfigurationEndsAsItReports := by
  intro s payload sched hc hp
  obtain ⟨⟨r, left, u⟩, hrun⟩ := runCommand_isOk .enterConfig payload sched s.opStart
  have hx : exec (.enterConfiguration payload sched) s = .next (u.setResult (.sequence r)) := by
    rw [exec_enterConfiguration, hrun]; rfl
  have hset := sameSetting_exec hx (by simp) (by simp)
  refine ⟨_, r, hx, rfl, hset.cfg, hset.tfam, hset.inq, ?_⟩
  rcases runCommand_ends_or_busy hc (Kept.refl s.opStart) hrun with (hend | ⟨-, hlong⟩) | ⟨hr, hhs⟩
  · cases hend with
    | success hu hr hhs hsess => exact .inl ⟨hr, hhs, hsess, hu.pCw⟩
    | failed hu hr hhs hsess => exact .inr (.inl ⟨pollStatus u, hr, hhs, hsess, hu.pCw, rfl⟩)
    | waiting hu hr hhs hsess => exact .inr (.inr (.inl ⟨hr, hhs, hsess, hu.pCw⟩))
  · exact absurd hp (Nat.not_le.mpr hlong)
  · exact .inr (.inr (.inr ⟨hr, hhs⟩))

theorem cancel_not_sent (s : State) : (cancel s).hs ≠ .sent := by
  rcases cancel_cases s with ⟨hn, he⟩ | ⟨-, he⟩
  · rw [he]; exact hn
  · rw [he]; simp

/-- EXIT_CONFIGURATION cancels what is pending, so its command is always sent (44_session_controller.md R211). -/
theorem runExit_ends {c : Config} {evs : List Event} {p : List Byte} {sched left : Schedule} {s t : State} {r : SeqResult}
    (hc : c.Wf) (hp : p.length ≤ c.txPayloadMax) (hk : Kept c evs s) (h : runExit p sched s = .ok (r, left, t)) :
    Ended c .exitConfig evs r t := by
  obtain ⟨⟨sched', u⟩, hslot⟩ := nextSlot_isOk sched s
  have hcancel : cancelPending sched s = .ok (sched', cancel u) := by
    simp only [cancelPending, hslot, bind, Except.bind]
  simp only [runExit, hcancel, bind, Except.bind] at h
  cases runCommand_ends hc (kept_cancel (kept_nextSlot hk hslot)) (cancel_not_sent u) h with
  | sent hend => exact hend
  | tooLong _ hlong => exact absurd hp (Nat.not_le.mpr hlong)

/-- Settles O42. -/
theorem exitConfigurationReturnsToStreaming : Obligations.ExitConfigurationReturnsToStreaming := by
  intro s payload sched hc hp
  obtain ⟨⟨r, left, u⟩, hrun⟩ := runExit_isOk payload sched s.opStart
  have hx : exec (.exitConfiguration payload sched) s = .next (u.setResult (.sequence r)) := by
    rw [exec_exitConfiguration, hrun]; rfl
  have hset := sameSetting_exec hx (by simp) (by simp)
  have hend := runExit_ends hc hp (Kept.refl s.opStart) hrun
  refine ⟨_, r, hx, rfl, hset.cfg, hset.tfam, hset.inq, hend.underway.pCw, ?_⟩
  cases hend with
  | success hu hr hhs hsess => exact .inl ⟨hr, hhs, hsess⟩
  | failed hu hr hhs hsess => exact .inr (.inl ⟨pollStatus u, hr, hhs, hsess, rfl⟩)
  | waiting hu hr hhs hsess => exact .inr (.inr ⟨hr, hhs, hsess⟩)

end Sys2Proof.Proofs
end

section
/-! APPLY_CONFIGURATION for every schedule of the other agents: the ranges first, then the commands one after the other
until one fails, then always the exit step; the first error is the one reported (44_session_controller.md R212, R213). -/

namespace Sys2Proof.Proofs

open Sys2Proof.Machine Sys2Proof.Spec

/-! ### The commands before the exit -/

/-- The events emitted since `s` hold an acknowledgement of each command of the list, in order. -/
def AcksInOrder (c : Config) (xs : List (Command × List Byte)) (evs : List Event) (t : State) : Prop :=
  ∃ new, t.events = evs ++ new ∧
    (xs.map fun x => c.word x.1 ||| c.replyFlag).Sublist (new.filterMap ackWord)

theorem acksInOrder_of_acked {c : Config} {m : Command} {p : List Byte} {evs : List Event} {t : State}
    (h : Underway c m evs t) (hhs : t.hs = .acked) : AcksInOrder c [(m, p)] evs t := by
  cases h.progress with
  | pending h' => rw [hhs] at h'; cases h'
  | failed h' => rw [hhs] at h'; cases h'
  | acked _ _ new hnew p' hack =>
    refine ⟨new, hnew, List.singleton_sublist.mpr (List.mem_filterMap.mpr ⟨_, hack, ?_⟩)⟩
    rw [h.pExpect]
    rfl

theorem AcksInOrder.append {c : Config} {xs ys : List (Command × List Byte)} {evs : List Event} {s t : State}
    (h : AcksInOrder c xs evs s) (h' : AcksInOrder c ys s.events t) : AcksInOrder c (xs ++ ys) evs t := by
  obtain ⟨new, hnew, hsub⟩ := h
  obtain ⟨new', hnew', hsub'⟩ := h'
  refine ⟨new ++ new', by rw [hnew', hnew, List.append_assoc], ?_⟩
  rw [List.map_append, List.filterMap_append]
  exact hsub.append hsub'

/-- What a list of commands, each required to succeed before the next, leaves: their end, a pending command only where
the host still waits, and all acknowledgements where it reports success. -/
structure GroupsEnd (xs : List (Command × List Byte)) (sched : Schedule) (s : State) (r : SeqResult) (left : Schedule)
    (t : State) : Prop where
  ends : CommandsEnd xs sched s r left t
  cfg : t.cfg = s.cfg
  waiting : r = .waiting → t.hs = .sent
  acks : r = .success → AcksInOrder s.cfg xs s.events t

/-- A command that fails reports its status, and only where the host waits is it pending. -/
theorem runCommand_fails {m : Command} {p : List Byte} {sched left : Schedule} {s t : State} {r : SeqResult}
    (hc : s.cfg.Wf) (h : runCommand m p sched s = .ok (r, left, t)) :
    (∀ st, r = .error (.status st) → t.hs = .failed ∧ t.pCw = s.cfg.word m ∧ st = pollStatus t) ∧
    (r = .waiting → t.hs = .sent) ∧ (r = .success → AcksInOrder s.cfg [(m, p)] s.events t) := by
  rcases runCommand_ends_or_busy hc (Kept.refl s) h with (hend | ⟨rfl, -⟩) | ⟨rfl, -⟩
  · cases hend with
    | success hu hr hhs => subst hr; exact ⟨by simp, by simp, fun _ => acksInOrder_of_acked hu hhs⟩
    | failed hu hr hhs =>
      subst hr
      refine ⟨fun st hst => ⟨hhs, hu.pCw, ?_⟩, by simp, by simp⟩
      cases hst
      rfl
    | waiting hu hr hhs => subst hr; exact ⟨by simp, fun _ => hhs, by simp⟩
  · exact ⟨by simp, by simp, by simp⟩
  · exact ⟨by simp, by simp, by simp⟩

theorem runGroups_end (xs : List (Command × List Byte)) : ∀ {sched left : Schedule} {s t : State} {r : SeqResult},
    s.cfg.Wf → runGroups xs sched s = .ok (r, left, t) → GroupsEnd xs sched s r left t := by
  induction xs with
  | nil =>
    intro sched left s t r hc h
    cases h
    exact ⟨.done _ _, rfl, by simp, fun _ => ⟨[], by simp, by simp⟩⟩
  | cons x xs ih =>
    intro sched left s t r hc h
    obtain ⟨m, p⟩ := x
    obtain ⟨⟨e, sched', u⟩, hrun⟩ := runCommand_isOk m p sched s
    obtain ⟨hstatus, hwaiting, hsuccess⟩ := runCommand_fails hc hrun
    have hcfg : u.cfg = s.cfg := (kept_runCommand (Kept.refl s) hrun).cfg
    by_cases he : e = .success
    · subst he
      rw [runGroups_cons_of_success hrun] at h
      obtain ⟨hends, hcfg', hwait, hacks⟩ := ih (hcfg ▸ hc) h
      exact ⟨.next hrun hends, hcfg'.trans hcfg, hwait, fun hr => (hsuccess rfl).append (hcfg ▸ hacks hr)⟩
    · have hstop : runGroups ((m, p) :: xs) sched s = .ok (e, sched', u) := by
        simp only [runGroups, hrun, bind, Except.bind]
      rw [hstop] at h
      cases h
      exact ⟨.stop hrun he hstatus, hcfg, hwaiting, fun hr => absurd hr he⟩

/-- ENTER_CONFIGURATION's error is the error of the commands. -/
theorem runGroups_of_enter_error {ps : ParamSet} {p : Payloads} {sched left left' : Schedule} {s t w : State}
    {before e : SeqResult} (h : runEnterAndGroups ps p sched s = .ok (before, left, t))
    (hw : runCommand .enterConfig p.enter sched s = .ok (e, left', w)) (he : e ≠ .success) : before = e := by
  simp only [runEnterAndGroups, hw, bind, Except.bind] at h
  cases e with
  | success => exact absurd rfl he
  | error e => cases h; rfl
  | waiting => cases h; rfl

/-! ### The exit step -/

/-- EXIT_CONFIGURATION behind other operations does what it does by itself, behind their events. -/
theorem runExit_behind (p : List Byte) (sched : Schedule) {u v : State} {ended : SeqResult} {left : Schedule}
    (h : runExit p sched u.opStart = .ok (ended, left, v)) :
    ∃ r, runExit p sched u = .ok (ended, left, shift 0 u.inq u.events r v) := by
  have hstart : Shifted False 0 u.inq u.events u.opStart u :=
    ⟨u.result, by simp [shift, State.opStart], False.elim⟩
  obtain ⟨⟨e, l, t⟩, ht, he, hl, r, hr, -⟩ := (simulation_shifted False 0 u.inq u.events).runExit p sched hstart _ h
  dsimp only at he hl hr
  subst he hl hr
  exact ⟨r, ht⟩

theorem runApply_of_waiting {ps : ParamSet} {p : Payloads} {sched left : Schedule} {s u : State}
    (h : runEnterAndGroups ps p sched s = .ok (.waiting, left, u)) : runApply ps p sched s = .ok (.waiting, left, u) := by
  simp only [runApply, h, bind, Except.bind]

theorem runApply_of_exit {ps : ParamSet} {p : Payloads} {sched left left' : Schedule} {s u t : State}
    {before ended : SeqResult} (h : runEnterAndGroups ps p sched s = .ok (before, left, u)) (hb : before ≠ .waiting)
    (hexit : runExit p.exit left u = .ok (ended, left', t)) :
    runApply ps p sched s = .ok (firstError before ended, left', t) := by
  cases before with
  | waiting => exact absurd rfl hb
  | success => simp only [runApply, h, hexit, bind, Except.bind]
  | error e => simp only [runApply, h, hexit, bind, Except.bind]

theorem firstError_of_waiting (before : SeqResult) : firstError before .waiting = .waiting := by
  cases before <;> rfl

theorem firstError_of_error {ended : SeqResult} (h : ended ≠ .waiting) (e : SeqError) :
    firstError (.error e) ended = .error e := by
  cases ended <;> first | rfl | exact absurd rfl h

theorem firstError_of_success (ended : SeqResult) : firstError .success ended = ended := by
  cases ended <;> rfl

theorem firstError_ne_waiting {before ended : SeqResult} (hb : before ≠ .waiting) (he : ended ≠ .waiting) :
    firstError before ended ≠ .waiting := by
  cases before with
  | waiting => exact absurd rfl hb
  | success => rw [firstError_of_success]; exact he
  | error e => rw [firstError_of_error he]; simp

theorem firstError_eq_success {before ended : SeqResult} (hb : before ≠ .waiting)
    (h : firstError before ended = .success) : before = .success ∧ ended = .success := by
  cases before with
  | waiting => exact absurd rfl hb
  | success => exact ⟨rfl, firstError_of_success ended ▸ h⟩
  | error e =>
    by_cases he : ended = .waiting
    · rw [he, firstError_of_waiting] at h; cases h
    · rw [firstError_of_error he] at h; cases h

/-! ### The whole sequence -/

/-- What the exit step leaves, by itself and behind the other commands, and what is reported with it. -/
theorem exitStep {ps : ParamSet} {p : Payloads} {sched left left' : Schedule} {s u v : State} {before ended : SeqResult}
    (h : runEnterAndGroups ps p sched s = .ok (before, left, u)) (hb : before ≠ .waiting)
    (hexit : runExit p.exit left u.opStart = .ok (ended, left', v)) (hinq : v.inq = u.inq) :
    ∃ t, runApply ps p sched s = .ok (firstError before ended, left', t) ∧
      ∀ r, t.setResult r = { v with events := u.events ++ v.events, result := r } := by
  obtain ⟨r, hrun⟩ := runExit_behind p.exit left hexit
  exact ⟨_, runApply_of_exit h hb hrun, fun r' => by simp [shift, State.setResult, hinq]⟩

/-- Where commands and exit succeed, the events of both hold all acknowledgements in order. -/
theorem acks_of_success {c : Config} {xs : List (Command × List Byte)} {p : List Byte} {u v : State} {r : SeqResult}
    (hu : AcksInOrder c xs [] u) (hv : Ended c .exitConfig [] r v) (hr : r = .success) :
    ((xs ++ [(Command.exitConfig, p)]).map fun x => c.word x.1 ||| c.replyFlag).Sublist
      ((u.events ++ v.events).filterMap ackWord) := by
  cases hv with
  | failed _ h => rw [hr] at h; cases h
  | waiting _ h => rw [hr] at h; cases h
  | success hunder _ hhs =>
    obtain ⟨new, hnew, hsub⟩ := hu
    obtain ⟨new', hnew', hsub'⟩ := acksInOrder_of_acked (p := p) hunder hhs
    rw [hnew, hnew', List.map_append, List.filterMap_append]
    exact hsub.append hsub'

/-- Settles O43. -/
theorem applyConfigurationChecksThenAlwaysExits : Obligations.ApplyConfigurationChecksThenAlwaysExits := by
  intro s ps p sched
  refine ⟨fun hbad => exec_applyConfiguration_of_outOfRange hbad p sched, fun hok hc hp => ?_⟩
  obtain ⟨⟨before, left, u⟩, hu⟩ := runEnterAndGroups_isOk ps p sched s.opStart
  obtain ⟨hends, hcfg, hwait, hacks⟩ := runGroups_end (commandsToApply ps p) (s := s.opStart) hc
    (by rw [← runEnterAndGroups_eq]; exact hu)
  rw [State.opStart_cfg] at hcfg
  have henter : ∀ w e, exec (.enterConfiguration p.enter sched) s = .next w → w.result = .sequence e → e ≠ .success →
      before = e := by
    intro w e hw hwr he
    obtain ⟨⟨e', l, w'⟩, hrun⟩ := runCommand_isOk .enterConfig p.enter sched s.opStart
    rw [exec_enterConfiguration, hrun] at hw
    cases hw
    cases hwr
    exact runGroups_of_enter_error hu hrun he
  have happly := exec_applyConfiguration_of_inRange hok p sched
  by_cases hb : before = .waiting
  · subst hb
    rw [runApply_of_waiting hu] at happly
    have hset := sameSetting_exec happly (by simp) (by simp)
    exact ⟨_, .waiting, happly, rfl, hset.cfg, hset.tfam, hset.inq, .inl ⟨rfl, hwait rfl⟩, by simp,
      .waiting, left, u, hends, henter, fun _ => rfl, fun h => absurd rfl h⟩
  · obtain ⟨⟨ended, left', v⟩, hexit⟩ := runExit_isOk p.exit left u.opStart
    have hx : exec (.exitConfiguration p.exit left) u = .next (v.setResult (.sequence ended)) := by
      rw [exec_exitConfiguration, hexit]; rfl
    have hend := runExit_ends (s := u.opStart) (c := s.cfg) (evs := []) hc hp ⟨hcfg, List.nil_prefix⟩ hexit
    obtain ⟨t, ht, htv⟩ := exitStep hu hb hexit (exec_cfg_inq hx).2
    rw [ht] at happly
    have hnext := happly.trans (congrArg Host.Outcome.next (htv (.sequence (firstError before ended))))
    have hset := sameSetting_exec hnext (by simp) (by simp)
    refine ⟨_, _, hnext, rfl, hset.cfg, hset.tfam, hset.inq, ?_, fun hr => ?_, before, left, u, hends, henter,
      fun h => absurd h hb, fun _ => ⟨_, ended, hx, rfl, rfl, fun he => ?_, fun e he hbe => ?_, fun hbs => ?_⟩⟩
    · cases hend with
      | success hv he hhs hsess =>
        exact .inr ⟨firstError_ne_waiting hb (by rw [he]; simp), hsess, hv.pCw, .inr hhs, fun _ => hhs⟩
      | failed hv he hhs hsess =>
        refine .inr ⟨firstError_ne_waiting hb (by rw [he]; simp), hsess, hv.pCw, .inl hhs, fun hr => ?_⟩
        rw [(firstError_eq_success hb hr).2] at he
        cases he
      | waiting hv he hhs =>
        exact .inl ⟨by rw [he, firstError_of_waiting], hhs⟩
    · obtain ⟨hbs, hes⟩ := firstError_eq_success hb hr
      exact acks_of_success (hacks hbs) hend hes
    · rw [he, firstError_of_waiting]
    · rw [hbe, firstError_of_error he]
    · rw [hbs, firstError_of_success]

end Sys2Proof.Proofs
end

section
/-! Simultaneous requests run one after the other in the fixed order of 60_exceptions.md R245: arbitration is a stable
sort by the place in the order, and the machine performs the queue it leaves request by request. -/

namespace Sys2Proof.Proofs

open Sys2Proof.Machine Sys2Proof.Spec

/-! ### Arbitration is a stable sort -/

/-- The requests of one place in the order, in the order they are presented. -/
def atPlace (k : Nat) (is : List Instr) : List Instr := is.filter fun i => priority i = k

theorem atPlace_cons_of_eq {k : Nat} {i : Instr} (h : priority i = k) (is : List Instr) :
    atPlace k (i :: is) = i :: atPlace k is := List.filter_cons_of_pos (decide_eq_true h)

theorem atPlace_cons_of_ne {k : Nat} {i : Instr} (h : priority i ≠ k) (is : List Instr) :
    atPlace k (i :: is) = atPlace k is := List.filter_cons_of_neg (by simpa using h)

theorem insertRequest_of_le {i j : Instr} (h : priority i ≤ priority j) (js : List Instr) :
    insertRequest i (j :: js) = i :: j :: js := if_pos h

theorem insertRequest_of_lt {i j : Instr} (h : priority j < priority i) (js : List Instr) :
    insertRequest i (j :: js) = j :: insertRequest i js := if_neg (Nat.not_le.mpr h)

theorem insertRequest_perm (i : Instr) (js : List Instr) : (insertRequest i js).Perm (i :: js) := by
  induction js with
  | nil => exact .refl _
  | cons j js ih =>
    rcases Nat.lt_or_ge (priority j) (priority i) with h | h
    · rw [insertRequest_of_lt h]
      exact (ih.cons j).trans (.swap i j js)
    · rw [insertRequest_of_le h]

theorem arbitrate_perm (is : List Instr) : (arbitrate is).Perm is := by
  induction is with
  | nil => exact .refl _
  | cons i is ih => exact (insertRequest_perm i _).trans (ih.cons i)

theorem insertRequest_pairwise {i : Instr} {js : List Instr} (h : js.Pairwise fun i j => priority i ≤ priority j) :
    (insertRequest i js).Pairwise fun i j => priority i ≤ priority j := by
  induction js with
  | nil => exact List.pairwise_singleton _ _
  | cons j js ih =>
    obtain ⟨hj, hjs⟩ := List.pairwise_cons.mp h
    rcases Nat.lt_or_ge (priority j) (priority i) with hlt | hle
    · rw [insertRequest_of_lt hlt]
      refine List.pairwise_cons.mpr ⟨fun k hk => ?_, ih hjs⟩
      rcases List.mem_cons.mp ((insertRequest_perm i js).mem_iff.mp hk) with rfl | hk
      · exact hlt.le
      · exact hj k hk
    · rw [insertRequest_of_le hle]
      refine List.pairwise_cons.mpr ⟨fun k hk => ?_, h⟩
      rcases List.mem_cons.mp hk with rfl | hk
      · exact hle
      · exact hle.trans (hj k hk)

theorem arbitrate_pairwise (is : List Instr) : (arbitrate is).Pairwise fun i j => priority i ≤ priority j := by
  induction is with
  | nil => exact .nil
  | cons i is ih => exact insertRequest_pairwise ih

/-- Requests of one place keep their order. -/
theorem atPlace_insertRequest (k : Nat) (i : Instr) (js : List Instr) :
    atPlace k (insertRequest i js) = atPlace k (i :: js) := by
  induction js with
  | nil => rfl
  | cons j js ih =>
    rcases Nat.lt_or_ge (priority j) (priority i) with hlt | hle
    · rw [insertRequest_of_lt hlt]
      by_cases hj : priority j = k
      · have hi : priority i ≠ k := by omega
        rw [atPlace_cons_of_eq hj, ih, atPlace_cons_of_ne hi, atPlace_cons_of_ne hi, atPlace_cons_of_eq hj]
      · rw [atPlace_cons_of_ne hj, ih]
        by_cases hi : priority i = k
        · rw [atPlace_cons_of_eq hi, atPlace_cons_of_eq hi, atPlace_cons_of_ne hj]
        · rw [atPlace_cons_of_ne hi, atPlace_cons_of_ne hi, atPlace_cons_of_ne hj]
    · rw [insertRequest_of_le hle]

theorem atPlace_arbitrate (k : Nat) (is : List Instr) : atPlace k (arbitrate is) = atPlace k is := by
  induction is with
  | nil => rfl
  | cons i is ih =>
    rw [arbitrate, atPlace_insertRequest]
    by_cases hi : priority i = k
    · rw [atPlace_cons_of_eq hi, atPlace_cons_of_eq hi, ih]
    · rw [atPlace_cons_of_ne hi, atPlace_cons_of_ne hi, ih]

/-! ### A sorted list is its places one after the other -/

/-- The requests of the first `n` places, place by place. -/
def byPlace (n : Nat) (is : List Instr) : List Instr := (List.range n).flatMap fun k => atPlace k is

theorem filter_lt_succ {is : List Instr} (h : is.Pairwise fun i j => priority i ≤ priority j) (n : Nat) :
    (is.filter fun i => priority i < n + 1) = (is.filter fun i => priority i < n) ++ atPlace n is := by
  induction is with
  | nil => rfl
  | cons i is ih =>
    obtain ⟨hi, his⟩ := List.pairwise_cons.mp h
    rcases Nat.lt_or_ge (priority i) n with hlt | hge
    · rw [List.filter_cons_of_pos (by simpa using Nat.lt_succ_of_lt hlt), List.filter_cons_of_pos (by simpa using hlt),
        atPlace_cons_of_ne (Nat.ne_of_lt hlt), ih his, List.cons_append]
    · have hnone : ((i :: is).filter fun i => priority i < n) = [] := by
        refine List.filter_eq_nil_iff.mpr fun j hj => ?_
        rcases List.mem_cons.mp hj with rfl | hj
        · simpa using hge
        · simpa using hge.trans (hi j hj)
      have hrest : (is.filter fun i => priority i < n) = [] :=
        List.filter_eq_nil_iff.mpr fun j hj => List.filter_eq_nil_iff.mp hnone j (List.mem_cons_of_mem _ hj)
      rw [hnone, List.nil_append]
      rw [hrest, List.nil_append] at ih
      by_cases heq : priority i = n
      · rw [List.filter_cons_of_pos (by simp [heq]), atPlace_cons_of_eq heq, ih his]
      · rw [List.filter_cons_of_neg (by simp; omega), atPlace_cons_of_ne heq, ih his]

theorem byPlace_of_pairwise {is : List Instr} (h : is.Pairwise fun i j => priority i ≤ priority j) (n : Nat) :
    byPlace n is = is.filter fun i => priority i < n := by
  induction n with
  | zero => simp [byPlace]
  | succ n ih =>
    rw [filter_lt_succ h, ← ih]
    simp [byPlace, List.range_succ]

theorem priority_le (i : Instr) : priority i ≤ 8 := by cases i <;> simp [priority]

theorem arbitrate_eq_byPlace (is : List Instr) : arbitrate is = byPlace 9 is :=
  calc arbitrate is = (arbitrate is).filter fun i => priority i < 9 :=
        (List.filter_eq_self.mpr fun i _ => decide_eq_true (Nat.lt_succ_of_le (priority_le i))).symm
    _ = byPlace 9 (arbitrate is) := (byPlace_of_pairwise (arbitrate_pairwise is) 9).symm
    _ = byPlace 9 is := by simp only [byPlace, atPlace_arbitrate]

/-! ### The places are those of the fixed order -/

theorem fixedOrder_eq : fixedOrder = (List.range 8).map fun k i => decide (priority i = k) := by
  simp only [fixedOrder, List.range, List.range.loop, List.map_cons, List.map_nil, List.cons.injEq, and_true]
  refine ⟨?_, ?_, ?_, ?_, ?_, ?_, ?_, ?_⟩
  all_goals
    funext i
    cases i <;> simp [priority, rowFamily, isIssue, Instr.command?]

theorem unlisted_iff (i : Instr) : (fixedOrder.all fun p => !p i) = decide (priority i = 8) := by
  have hle := priority_le i
  rw [fixedOrder_eq, Bool.eq_iff_iff]
  simp only [List.all_map, List.all_eq_true, List.mem_range, Function.comp, Bool.not_eq_true', decide_eq_false_iff_not,
    decide_eq_true_eq]
  constructor
  · intro h
    by_contra hne
    exact h (priority i) (by omega) rfl
  · intro h k hk
    omega

theorem inFixedOrder_eq (is : List Instr) : inFixedOrder is = byPlace 9 is := by
  have hlast : (is.filter fun i => fixedOrder.all fun p => !p i) = atPlace 8 is := by
    simp only [unlisted_iff]
    rfl
  rw [inFixedOrder, hlast, fixedOrder_eq, byPlace, List.range_succ (n := 8), List.flatMap_append, List.flatMap_map,
    List.flatMap_singleton]
  rfl

/-! ### The machine performs the queue -/

/-- Operations, frames and commands have bytes. -/
theorem encode_of_format {c : Config} {i : Instr} (hmicro : i.format ≠ .micro) (hseq : i.format ≠ .pseudo) :
    ∃ head, encode c i = some head := by
  cases i
  all_goals first | exact ⟨_, rfl⟩ | exact absurd rfl hmicro | exact absurd rfl hseq

/-- A command does what the ISSUE it stands for does. -/
theorem exec_canonical (i : Instr) (s : State) : exec (i.canonical s.cfg) s = exec i s := by
  cases hcmd : i.command? with
  | none => rw [Instr.canonical, hcmd]
  | some mp =>
    rw [Instr.canonical, hcmd, exec_command hcmd]
    rfl

/-- The queue behind an operation is neither read nor written by it. -/
theorem exec_behind_queue {i : Instr} {s u : State} (h : exec i s = .next u) (rest : List Byte) :
    exec i { s with inq := rest } = .next { u with inq := rest } := by
  by_cases hreset : i = .reset
  · subst hreset; cases h; rfl
  · have hstart : Shifted True 0 rest [] s.opStart { s with inq := rest }.opStart := ⟨.none, rfl, fun _ => rfl⟩
    obtain ⟨_, hv, r, rfl, hr⟩ := (simulation_shifted True 0 rest []).exec hstart hreset h
    rw [hv, hr trivial]
    rfl

theorem core_run_succ {n : Nat} {s u : State} (h : step s = .next u) :
    Sys2Proof.core.run (n + 1) s = Sys2Proof.core.run n u := by
  have hstep : Sys2Proof.core.step s = .next u := h
  simp only [Host.Core.run, hstep]

/-- The bytes of requests, one step each. -/
theorem run_requests (is : List Instr) : ∀ {s t : State}, s.cfg.Wf →
    (∀ i ∈ is, i.wellFormed s.cfg = true ∧ i.format ≠ .micro ∧ i.format ≠ .pseudo) → runOps is s = some t →
    Sys2Proof.core.run is.length { s with inq := requestBytes s.cfg is } = .next { t with inq := [] } := by
  induction is with
  | nil => intro s t _ _ h; cases h; rfl
  | cons i is ih =>
    intro s t hc hi h
    obtain ⟨hwf, hmicro, hseq⟩ := hi i List.mem_cons_self
    obtain ⟨head, henc⟩ := encode_of_format (c := s.cfg) hmicro hseq
    obtain ⟨u, hu⟩ := exec_isOk hwf
    have hcfg := (exec_cfg_inq hu).1
    have hbytes : requestBytes s.cfg (i :: is) = head ++ requestBytes s.cfg is := by
      rw [requestBytes, List.flatMap_cons, henc]; rfl
    have hstep : step { s with inq := requestBytes s.cfg (i :: is) } = .next { u with inq := requestBytes s.cfg is } := by
      rw [hbytes, step_of_decode (decode_of_isRequest hc (isRequest_canonical hwf henc) _)]
      exact (exec_canonical i (s.dequeue (requestBytes s.cfg is))).trans (exec_behind_queue hu (requestBytes s.cfg is))
    rw [runOps, hu] at h
    have hrest := ih (hcfg ▸ hc) (fun j hj => hcfg ▸ hi j (List.mem_cons_of_mem _ hj)) h
    have hqueue : requestBytes u.cfg is = requestBytes s.cfg is := by rw [hcfg]
    rw [hqueue] at hrest
    exact (core_run_succ hstep).trans hrest

theorem runOps_inq (is : List Instr) : ∀ {s t : State}, runOps is s = some t → t.inq = s.inq := by
  induction is with
  | nil => intro s t h; cases h; rfl
  | cons i is ih =>
    intro s t h
    cases hx : exec i s with
    | next u =>
      rw [runOps, hx] at h
      exact (ih h).trans (exec_cfg_inq hx).2
    | fault f => rw [runOps, hx] at h; cases h
    | refused r => rw [runOps, hx] at h; cases h

/-- Settles O55. -/
theorem simultaneousRequestsRunInOrder : Obligations.SimultaneousRequestsRunInOrder := by
  refine ⟨fun s t is hc hinq hi h => ?_, fun is => ⟨?_, arbitrate_perm is, arbitrate_pairwise is⟩, fun _ _ _ _ _ _ _ => ?_⟩
  · have harb : arbitrate is = inFixedOrder is := by rw [arbitrate_eq_byPlace, inFixedOrder_eq]
    rw [← harb] at h
    have hrun := run_requests (arbitrate is) hc (fun i hm => hi i ((arbitrate_perm is).mem_iff.mp hm)) h
    have hpresent : s.present is = { s with inq := requestBytes s.cfg (arbitrate is) } := by
      rw [State.present, hinq, List.nil_append]
    have hend : t = { t with inq := [] } := by rw [← hinq, ← runOps_inq _ h]
    rw [hpresent, ← (arbitrate_perm is).length_eq, hrun, ← hend]
  · rw [arbitrate_eq_byPlace, inFixedOrder_eq]
  · simp [priority]

end Sys2Proof.Proofs
end
